-- ==== Sys2Proof/Word.lean ====
section
/-! DEFINITION. The word types of the machine and their plainest arithmetic (00_scope.md R10 to R13). -/

namespace Sys2Proof

/-- The addressable unit and the width of a general register (00_scope.md R7: `BYTE`, `REG_BITS`). -/
abbrev Byte := BitVec 8

/-- The width of `pc`, `I`, a stack entry, the key mask and an opcode (00_scope.md R7). -/
abbrev Word16 := BitVec 16

/-- The `NNN` field (00_scope.md R13). -/
abbrev Addr12 := BitVec 12

/-- The `N` field (00_scope.md R13). -/
abbrev Nibble := BitVec 4

/-- A general register's index, V0 to VF (10_state.md R21); it comes from a 4-bit field, so none is out of range. -/
abbrev RegIdx := Fin 16

/-- `zext_16` of a 12-bit field (00_scope.md R12; 30_encoding.md R92). -/
def zext12 (a : Addr12) : Word16 := a.setWidth 16

/-- `zext_16` of a byte (00_scope.md R12). -/
def zext8 (b : Byte) : Word16 := b.setWidth 16

end Sys2Proof
end

