-- ==== Sys2Proof/Syntax.lean ====
section
/-! DEFINITION. The instructions: one constructor for every row of spec/opcode_table.json, in the table's order
(30_encoding.md R94, and R96 for the five unassigned classes). Every field of the encoding is kept, also the `Y` of
the shifts, which is ignored (R102). -/

namespace Sys2Proof

inductive Instr where
  /-- `00E0` CLS (45_display.md R190). -/
  | cls
  /-- `00EE` RET (41_flow.md R140). -/
  | ret
  /-- `0NNN` other than 00E0 and 00EE, SYS addr (41_flow.md R141). -/
  | sys (nnn : Addr12)
  /-- `1NNN` JP addr (41_flow.md R142). -/
  | jp (nnn : Addr12)
  /-- `2NNN` CALL addr (41_flow.md R143). -/
  | call (nnn : Addr12)
  /-- `3XNN` SE Vx, byte (42_skip.md R150). -/
  | seImm (x : RegIdx) (nn : Byte)
  /-- `4XNN` SNE Vx, byte (42_skip.md R151). -/
  | sneImm (x : RegIdx) (nn : Byte)
  /-- `5XY0` SE Vx, Vy (42_skip.md R152). -/
  | seReg (x y : RegIdx)
  /-- `5XYN`, N != 0, unassigned (30_encoding.md R96, R97). -/
  | unassigned5 (x y : RegIdx) (n : Nibble)
  /-- `6XNN` LD Vx, byte (43_alu.md R160). -/
  | ldImm (x : RegIdx) (nn : Byte)
  /-- `7XNN` ADD Vx, byte (43_alu.md R161). -/
  | addImm (x : RegIdx) (nn : Byte)
  /-- `8XY0` LD Vx, Vy (43_alu.md R162). -/
  | ldReg (x y : RegIdx)
  /-- `8XY1` OR Vx, Vy (43_alu.md R163). -/
  | orReg (x y : RegIdx)
  /-- `8XY2` AND Vx, Vy (43_alu.md R164). -/
  | andReg (x y : RegIdx)
  /-- `8XY3` XOR Vx, Vy (43_alu.md R165). -/
  | xorReg (x y : RegIdx)
  /-- `8XY4` ADD Vx, Vy (43_alu.md R166). -/
  | addReg (x y : RegIdx)
  /-- `8XY5` SUB Vx, Vy (43_alu.md R167). -/
  | subReg (x y : RegIdx)
  /-- `8XY6` SHR Vx, with a Y field that is ignored (43_alu.md R168). -/
  | shr (x y : RegIdx)
  /-- `8XY7` SUBN Vx, Vy (43_alu.md R169). -/
  | subnReg (x y : RegIdx)
  /-- `8XYE` SHL Vx, with a Y field that is ignored (43_alu.md R170). -/
  | shl (x y : RegIdx)
  /-- `8XYN`, N in 8..D or F, unassigned (30_encoding.md R96, R97). -/
  | unassigned8 (x y : RegIdx) (n : Nibble)
  /-- `9XY0` SNE Vx, Vy (42_skip.md R153). -/
  | sneReg (x y : RegIdx)
  /-- `9XYN`, N != 0, unassigned (30_encoding.md R96, R97). -/
  | unassigned9 (x y : RegIdx) (n : Nibble)
  /-- `ANNN` LD I, addr (44_index_memory.md R180). -/
  | ldI (nnn : Addr12)
  /-- `BNNN` JP V0, addr (41_flow.md R144). -/
  | jpV0 (nnn : Addr12)
  /-- `CXNN` RND Vx, byte (43_alu.md R171). -/
  | rnd (x : RegIdx) (nn : Byte)
  /-- `DXYN` DRW Vx, Vy, nibble (45_display.md R191). -/
  | drw (x y : RegIdx) (n : Nibble)
  /-- `EX9E` SKP Vx (46_keys_timers.md R200). -/
  | skp (x : RegIdx)
  /-- `EXA1` SKNP Vx (46_keys_timers.md R201). -/
  | sknp (x : RegIdx)
  /-- `EXNN`, NN not 9E or A1, unassigned (30_encoding.md R96, R97). -/
  | unassignedE (x : RegIdx) (nn : Byte)
  /-- `FX07` LD Vx, DT (46_keys_timers.md R202). -/
  | ldVxDt (x : RegIdx)
  /-- `FX0A` LD Vx, K (46_keys_timers.md R203). -/
  | ldVxK (x : RegIdx)
  /-- `FX15` LD DT, Vx (46_keys_timers.md R204). -/
  | ldDtVx (x : RegIdx)
  /-- `FX18` LD ST, Vx (46_keys_timers.md R205). -/
  | ldStVx (x : RegIdx)
  /-- `FX1E` ADD I, Vx (44_index_memory.md R181). -/
  | addI (x : RegIdx)
  /-- `FX29` LD F, Vx (44_index_memory.md R182). -/
  | ldF (x : RegIdx)
  /-- `FX33` LD B, Vx (44_index_memory.md R183). -/
  | ldB (x : RegIdx)
  /-- `FX55` LD [I], Vx (44_index_memory.md R184). -/
  | storeRegs (x : RegIdx)
  /-- `FX65` LD Vx, [I] (44_index_memory.md R185). -/
  | loadRegs (x : RegIdx)
  /-- `FXNN`, NN none of the nine above, unassigned (30_encoding.md R96, R97). -/
  | unassignedF (x : RegIdx) (nn : Byte)
  deriving DecidableEq, Repr

end Sys2Proof
end

