-- ==== Sys2Proof/WellFormed.lean ====
section
/-! DEFINITION. Which terms of `Instr` stand for a 16-bit word: the field widths are in the types, so what is left are
the values an earlier row of the opcode table takes away (30_encoding.md R93 to R96). -/

namespace Sys2Proof

/-- The sub-selectors N assigned under opcode group 8 (30_encoding.md R94 rows 11 to 19). -/
def assigned8 : List Nibble := [0x0#4, 0x1#4, 0x2#4, 0x3#4, 0x4#4, 0x5#4, 0x6#4, 0x7#4, 0xE#4]

/-- The sub-selectors NN assigned under opcode group E (30_encoding.md R94 rows 25, 26). -/
def assignedE : List Byte := [0x9E#8, 0xA1#8]

/-- The sub-selectors NN assigned under opcode group F (30_encoding.md R94 rows 27 to 35). -/
def assignedF : List Byte :=
  [0x07#8, 0x0A#8, 0x15#8, 0x18#8, 0x1E#8, 0x29#8, 0x33#8, 0x55#8, 0x65#8]

/-- An instruction is well formed when some word encodes it (30_encoding.md R95, R96). -/
def Instr.wf : Instr → Bool
  | .sys nnn => nnn != 0x0E0#12 && nnn != 0x0EE#12
  | .unassigned5 _ _ n => n != 0#4
  | .unassigned8 _ _ n => !assigned8.contains n
  | .unassigned9 _ _ n => n != 0#4
  | .unassignedE _ nn => !assignedE.contains nn
  | .unassignedF _ nn => !assignedF.contains nn
  | .cls | .ret | .jp _ | .call _ | .seImm _ _ | .sneImm _ _ | .seReg _ _ | .ldImm _ _ | .addImm _ _
  | .ldReg _ _ | .orReg _ _ | .andReg _ _ | .xorReg _ _ | .addReg _ _ | .subReg _ _ | .shr _ _
  | .subnReg _ _ | .shl _ _ | .sneReg _ _ | .ldI _ | .jpV0 _ | .rnd _ _ | .drw _ _ _ | .skp _ | .sknp _
  | .ldVxDt _ | .ldVxK _ | .ldDtVx _ | .ldStVx _ | .addI _ | .ldF _ | .ldB _ | .storeRegs _
  | .loadRegs _ => true

/-- The five classes of unassigned encodings (30_encoding.md R96). -/
def Instr.isUnassigned : Instr → Bool
  | .unassigned5 _ _ _ | .unassigned8 _ _ _ | .unassigned9 _ _ _ | .unassignedE _ _ | .unassignedF _ _ => true
  | .cls | .ret | .sys _ | .jp _ | .call _ | .seImm _ _ | .sneImm _ _ | .seReg _ _ | .ldImm _ _ | .addImm _ _
  | .ldReg _ _ | .orReg _ _ | .andReg _ _ | .xorReg _ _ | .addReg _ _ | .subReg _ _ | .shr _ _
  | .subnReg _ _ | .shl _ _ | .sneReg _ _ | .ldI _ | .jpV0 _ | .rnd _ _ | .drw _ _ _ | .skp _ | .sknp _
  | .ldVxDt _ | .ldVxK _ | .ldDtVx _ | .ldStVx _ | .addI _ | .ldF _ | .ldB _ | .storeRegs _
  | .loadRegs _ => false

end Sys2Proof
end

