-- ==== Sys2Proof/Decode.lean ====
section
/-! DEFINITION. The decoder (30_encoding.md R91, R93, R94, R96), total on words and, on bytes, rejecting by name what
is too short; the encoder, written from the same patterns; and the opcode map as a table of masks and matches. -/

namespace Sys2Proof

/-! ### The fields of an opcode (00_scope.md R13; 30_encoding.md R91) -/

/-- The first dispatch key, bits 15 to 12. -/
def fieldTop (op : Word16) : Fin 16 := (op.extractLsb' 12 4).toFin

/-- `X`, bits 11 to 8. -/
def fieldX (op : Word16) : RegIdx := (op.extractLsb' 8 4).toFin

/-- `Y`, bits 7 to 4. -/
def fieldY (op : Word16) : RegIdx := (op.extractLsb' 4 4).toFin

/-- `N`, bits 3 to 0. -/
def fieldN (op : Word16) : Nibble := op.extractLsb' 0 4

/-- `NN`, bits 7 to 0. -/
def fieldNN (op : Word16) : Byte := op.extractLsb' 0 8

/-- `NNN`, bits 11 to 0. -/
def fieldNNN (op : Word16) : Addr12 := op.extractLsb' 0 12

/-! ### The decoder -/

/-- Group 0: the two full words first, every other word is `0NNN` (30_encoding.md R95). -/
def decode0 (op : Word16) : Instr :=
  if op = 0x00E0#16 then .cls else if op = 0x00EE#16 then .ret else .sys (fieldNNN op)

/-- Group 5: N = 0 is the one assigned sub-selector (30_encoding.md R93, R96). -/
def decode5 (op : Word16) : Instr :=
  if fieldN op = 0#4 then .seReg (fieldX op) (fieldY op) else .unassigned5 (fieldX op) (fieldY op) (fieldN op)

/-- Group 8 by N (30_encoding.md R94 rows 11 to 19, R96). -/
def decode8 (op : Word16) : Instr :=
  let x := fieldX op
  let y := fieldY op
  if fieldN op = 0x0#4 then .ldReg x y
  else if fieldN op = 0x1#4 then .orReg x y
  else if fieldN op = 0x2#4 then .andReg x y
  else if fieldN op = 0x3#4 then .xorReg x y
  else if fieldN op = 0x4#4 then .addReg x y
  else if fieldN op = 0x5#4 then .subReg x y
  else if fieldN op = 0x6#4 then .shr x y
  else if fieldN op = 0x7#4 then .subnReg x y
  else if fieldN op = 0xE#4 then .shl x y
  else .unassigned8 x y (fieldN op)

/-- Group 9: N = 0 is the one assigned sub-selector (30_encoding.md R93, R96). -/
def decode9 (op : Word16) : Instr :=
  if fieldN op = 0#4 then .sneReg (fieldX op) (fieldY op) else .unassigned9 (fieldX op) (fieldY op) (fieldN op)

/-- Group E by NN (30_encoding.md R94 rows 25, 26, R96). -/
def decodeE (op : Word16) : Instr :=
  if fieldNN op = 0x9E#8 then .skp (fieldX op)
  else if fieldNN op = 0xA1#8 then .sknp (fieldX op)
  else .unassignedE (fieldX op) (fieldNN op)

/-- Group F by NN (30_encoding.md R94 rows 27 to 35, R96). -/
def decodeF (op : Word16) : Instr :=
  let x := fieldX op
  if fieldNN op = 0x07#8 then .ldVxDt x
  else if fieldNN op = 0x0A#8 then .ldVxK x
  else if fieldNN op = 0x15#8 then .ldDtVx x
  else if fieldNN op = 0x18#8 then .ldStVx x
  else if fieldNN op = 0x1E#8 then .addI x
  else if fieldNN op = 0x29#8 then .ldF x
  else if fieldNN op = 0x33#8 then .ldB x
  else if fieldNN op = 0x55#8 then .storeRegs x
  else if fieldNN op = 0x65#8 then .loadRegs x
  else .unassignedF x (fieldNN op)

/-- DECODE: keyed first on bits 15 to 12, then on the sub-selector; "a total function on 16-bit words"
(30_encoding.md R93; 40_step_cycle.md R123). The last arm is group F, the one value of the four bits that is left. -/
def decodeWord (op : Word16) : Instr :=
  match (fieldTop op).val with
  | 0x0 => decode0 op
  | 0x1 => .jp (fieldNNN op)
  | 0x2 => .call (fieldNNN op)
  | 0x3 => .seImm (fieldX op) (fieldNN op)
  | 0x4 => .sneImm (fieldX op) (fieldNN op)
  | 0x5 => decode5 op
  | 0x6 => .ldImm (fieldX op) (fieldNN op)
  | 0x7 => .addImm (fieldX op) (fieldNN op)
  | 0x8 => decode8 op
  | 0x9 => decode9 op
  | 0xA => .ldI (fieldNNN op)
  | 0xB => .jpV0 (fieldNNN op)
  | 0xC => .rnd (fieldX op) (fieldNN op)
  | 0xD => .drw (fieldX op) (fieldY op) (fieldN op)
  | 0xE => decodeE op
  | _ => decodeF op

/-- Why bytes do not decode: every 16-bit word does (30_encoding.md R93), so only a missing byte stops it. -/
inductive DecodeError where
  /-- No byte at all. Raised by `decode`; safe: the machine's fetch always supplies two bytes. -/
  | noByte
  /-- One byte where an instruction is two (30_encoding.md R90). Raised by `decode`; safe, as above. -/
  | oneByteOnly
  deriving DecidableEq, Repr

/-- An instruction from the front of a byte sequence, high byte first (30_encoding.md R90), and the rest. -/
def decode : List Byte → Except DecodeError (Instr × List Byte)
  | [] => .error .noByte
  | [_] => .error .oneByteOnly
  | hi :: lo :: rest => .ok (decodeWord (hi ++ lo), rest)

/-! ### The encoder -/

/-- A word in the nibble view `prefix X Y N` (30_encoding.md R91). -/
def wordXYN (top : Nibble) (x y : RegIdx) (n : Nibble) : Word16 :=
  ((top ++ BitVec.ofFin (w := 4) x) ++ BitVec.ofFin (w := 4) y) ++ n

/-- A word in the byte view `prefix X NN` (30_encoding.md R91). -/
def wordXNN (top : Nibble) (x : RegIdx) (nn : Byte) : Word16 := (top ++ BitVec.ofFin (w := 4) x) ++ nn

/-- A word in the address view `prefix NNN` (30_encoding.md R91). -/
def wordNNN (top : Nibble) (nnn : Addr12) : Word16 := top ++ nnn

/-- The one word of an instruction, by the pattern of its row (30_encoding.md R94, R96). -/
def encodeWord : Instr → Word16
  | .cls => 0x00E0#16
  | .ret => 0x00EE#16
  | .sys nnn => wordNNN 0x0#4 nnn
  | .jp nnn => wordNNN 0x1#4 nnn
  | .call nnn => wordNNN 0x2#4 nnn
  | .seImm x nn => wordXNN 0x3#4 x nn
  | .sneImm x nn => wordXNN 0x4#4 x nn
  | .seReg x y => wordXYN 0x5#4 x y 0x0#4
  | .unassigned5 x y n => wordXYN 0x5#4 x y n
  | .ldImm x nn => wordXNN 0x6#4 x nn
  | .addImm x nn => wordXNN 0x7#4 x nn
  | .ldReg x y => wordXYN 0x8#4 x y 0x0#4
  | .orReg x y => wordXYN 0x8#4 x y 0x1#4
  | .andReg x y => wordXYN 0x8#4 x y 0x2#4
  | .xorReg x y => wordXYN 0x8#4 x y 0x3#4
  | .addReg x y => wordXYN 0x8#4 x y 0x4#4
  | .subReg x y => wordXYN 0x8#4 x y 0x5#4
  | .shr x y => wordXYN 0x8#4 x y 0x6#4
  | .subnReg x y => wordXYN 0x8#4 x y 0x7#4
  | .shl x y => wordXYN 0x8#4 x y 0xE#4
  | .unassigned8 x y n => wordXYN 0x8#4 x y n
  | .sneReg x y => wordXYN 0x9#4 x y 0x0#4
  | .unassigned9 x y n => wordXYN 0x9#4 x y n
  | .ldI nnn => wordNNN 0xA#4 nnn
  | .jpV0 nnn => wordNNN 0xB#4 nnn
  | .rnd x nn => wordXNN 0xC#4 x nn
  | .drw x y n => wordXYN 0xD#4 x y n
  | .skp x => wordXNN 0xE#4 x 0x9E#8
  | .sknp x => wordXNN 0xE#4 x 0xA1#8
  | .unassignedE x nn => wordXNN 0xE#4 x nn
  | .ldVxDt x => wordXNN 0xF#4 x 0x07#8
  | .ldVxK x => wordXNN 0xF#4 x 0x0A#8
  | .ldDtVx x => wordXNN 0xF#4 x 0x15#8
  | .ldStVx x => wordXNN 0xF#4 x 0x18#8
  | .addI x => wordXNN 0xF#4 x 0x1E#8
  | .ldF x => wordXNN 0xF#4 x 0x29#8
  | .ldB x => wordXNN 0xF#4 x 0x33#8
  | .storeRegs x => wordXNN 0xF#4 x 0x55#8
  | .loadRegs x => wordXNN 0xF#4 x 0x65#8
  | .unassignedF x nn => wordXNN 0xF#4 x nn

/-- The high byte of a word, the one at the lower address (20_memory.md R63). -/
def highByte (w : Word16) : Byte := w.extractLsb' 8 8

/-- The low byte of a word. -/
def lowByte (w : Word16) : Byte := w.extractLsb' 0 8

/-- An instruction's bytes as memory holds them, high byte first (30_encoding.md R90). -/
def encode (i : Instr) : List Byte := [highByte (encodeWord i), lowByte (encodeWord i)]

/-! ### The opcode map as a table -/

/-- A row of the opcode map: `(op & mask) == code` selects it, and `build` cuts its operands (30_encoding.md R94). -/
structure OpcodeRow where
  mask : Word16
  code : Word16
  build : Word16 → Instr

/-- The row matches the word (30_encoding.md R93). -/
def OpcodeRow.selects (r : OpcodeRow) (op : Word16) : Bool := (op &&& r.mask) == r.code

/-- The rows of groups 0 to 7 (30_encoding.md R94), in the file order of spec/opcode_table.json. -/
def opcodeRows07 : List OpcodeRow :=
  [⟨0xFFFF#16, 0x00E0#16, fun _ => .cls⟩,
   ⟨0xFFFF#16, 0x00EE#16, fun _ => .ret⟩,
   ⟨0xF000#16, 0x0000#16, fun w => .sys (fieldNNN w)⟩,
   ⟨0xF000#16, 0x1000#16, fun w => .jp (fieldNNN w)⟩,
   ⟨0xF000#16, 0x2000#16, fun w => .call (fieldNNN w)⟩,
   ⟨0xF000#16, 0x3000#16, fun w => .seImm (fieldX w) (fieldNN w)⟩,
   ⟨0xF000#16, 0x4000#16, fun w => .sneImm (fieldX w) (fieldNN w)⟩,
   ⟨0xF00F#16, 0x5000#16, fun w => .seReg (fieldX w) (fieldY w)⟩,
   ⟨0xF000#16, 0x5000#16, fun w => .unassigned5 (fieldX w) (fieldY w) (fieldN w)⟩,
   ⟨0xF000#16, 0x6000#16, fun w => .ldImm (fieldX w) (fieldNN w)⟩,
   ⟨0xF000#16, 0x7000#16, fun w => .addImm (fieldX w) (fieldNN w)⟩]

/-- The rows of groups 8 and 9. -/
def opcodeRows89 : List OpcodeRow :=
  [⟨0xF00F#16, 0x8000#16, fun w => .ldReg (fieldX w) (fieldY w)⟩,
   ⟨0xF00F#16, 0x8001#16, fun w => .orReg (fieldX w) (fieldY w)⟩,
   ⟨0xF00F#16, 0x8002#16, fun w => .andReg (fieldX w) (fieldY w)⟩,
   ⟨0xF00F#16, 0x8003#16, fun w => .xorReg (fieldX w) (fieldY w)⟩,
   ⟨0xF00F#16, 0x8004#16, fun w => .addReg (fieldX w) (fieldY w)⟩,
   ⟨0xF00F#16, 0x8005#16, fun w => .subReg (fieldX w) (fieldY w)⟩,
   ⟨0xF00F#16, 0x8006#16, fun w => .shr (fieldX w) (fieldY w)⟩,
   ⟨0xF00F#16, 0x8007#16, fun w => .subnReg (fieldX w) (fieldY w)⟩,
   ⟨0xF00F#16, 0x800E#16, fun w => .shl (fieldX w) (fieldY w)⟩,
   ⟨0xF000#16, 0x8000#16, fun w => .unassigned8 (fieldX w) (fieldY w) (fieldN w)⟩,
   ⟨0xF00F#16, 0x9000#16, fun w => .sneReg (fieldX w) (fieldY w)⟩,
   ⟨0xF000#16, 0x9000#16, fun w => .unassigned9 (fieldX w) (fieldY w) (fieldN w)⟩]

/-- The rows of groups A to E. -/
def opcodeRowsAE : List OpcodeRow :=
  [⟨0xF000#16, 0xA000#16, fun w => .ldI (fieldNNN w)⟩,
   ⟨0xF000#16, 0xB000#16, fun w => .jpV0 (fieldNNN w)⟩,
   ⟨0xF000#16, 0xC000#16, fun w => .rnd (fieldX w) (fieldNN w)⟩,
   ⟨0xF000#16, 0xD000#16, fun w => .drw (fieldX w) (fieldY w) (fieldN w)⟩,
   ⟨0xF0FF#16, 0xE09E#16, fun w => .skp (fieldX w)⟩,
   ⟨0xF0FF#16, 0xE0A1#16, fun w => .sknp (fieldX w)⟩,
   ⟨0xF000#16, 0xE000#16, fun w => .unassignedE (fieldX w) (fieldNN w)⟩]

/-- The rows of group F. -/
def opcodeRowsF : List OpcodeRow :=
  [⟨0xF0FF#16, 0xF007#16, fun w => .ldVxDt (fieldX w)⟩,
   ⟨0xF0FF#16, 0xF00A#16, fun w => .ldVxK (fieldX w)⟩,
   ⟨0xF0FF#16, 0xF015#16, fun w => .ldDtVx (fieldX w)⟩,
   ⟨0xF0FF#16, 0xF018#16, fun w => .ldStVx (fieldX w)⟩,
   ⟨0xF0FF#16, 0xF01E#16, fun w => .addI (fieldX w)⟩,
   ⟨0xF0FF#16, 0xF029#16, fun w => .ldF (fieldX w)⟩,
   ⟨0xF0FF#16, 0xF033#16, fun w => .ldB (fieldX w)⟩,
   ⟨0xF0FF#16, 0xF055#16, fun w => .storeRegs (fieldX w)⟩,
   ⟨0xF0FF#16, 0xF065#16, fun w => .loadRegs (fieldX w)⟩,
   ⟨0xF000#16, 0xF000#16, fun w => .unassignedF (fieldX w) (fieldNN w)⟩]

/-- The 40 rows of the opcode map in file order; a claim compares `decodeWord` with its first matching row. -/
def opcodeTable : List OpcodeRow := opcodeRows07 ++ (opcodeRows89 ++ (opcodeRowsAE ++ opcodeRowsF))

/-! ### The host's question -/

/-- The low `nbits` bits of `w` as an opcode, the bits above them 0; at most one 16-bit word. -/
def tableWord (nbits w : Nat) : Word16 := BitVec.ofNat 16 (w % 2 ^ nbits)

end Sys2Proof

/-- What the decoder reads from the instruction whose bits are `w`, numbered as spec/opcode_table.json numbers them
(bit 0 the least significant bit of the 16-bit word): the word is laid out high byte first and decoded. -/
def Sys2Proof.decodeTableWord (nbits w : Nat) : Option Sys2Proof.Instr :=
  match Sys2Proof.decode [Sys2Proof.highByte (Sys2Proof.tableWord nbits w), Sys2Proof.lowByte (Sys2Proof.tableWord nbits w)] with
  | .ok (i, _) => some i
  | .error _ => none
end

