-- ==== Sys2Proof/Config.lean ====
section
/-! DEFINITION. The parameters the spec fixes (00_scope.md R7), the ones it leaves open (R8), and the free values
that stand for the host's inputs. The open parameters themselves, and their defaults, are in Machine/Params.lean. -/

namespace Sys2Proof.Config

/-- `MEM_SIZE`: 4096 bytes of memory, 12 address bits (00_scope.md R7). -/
def memSize : Nat := 4096

/-- `PC_RESET` (00_scope.md R7). -/
def pcReset : Word16 := 0x200#16

/-- `PROG_BASE`, the address of the first byte of a loaded program (00_scope.md R7). -/
def progBase : Nat := 0x200

/-- `PROG_MAX`, the largest program image in bytes (00_scope.md R7). -/
def progMax : Nat := 3584

/-- `FLAG_REG`: VF is the flag register (00_scope.md R7; 10_state.md R22). -/
abbrev flagReg : RegIdx := 15

/-- `FONT_GLYPH_BYTES`: a digit's glyph is 5 bytes tall (00_scope.md R7; 10_state.md R38). -/
def glyphBytes : Nat := 5

/-- One less than the `TICK_PERIOD` of a platform that does not name one: the spec gives no default (00_scope.md R8), so it
has no body. Log 7; safe. -/
opaque tickPeriodPred : Nat

/-- Free value: the random byte the environment supplies to step number `n` where no listed input fixes it
(10_state.md R30: "a free input under no law"). Log 1; safe. -/
opaque freeRnd : Nat → Byte

/-- Free value: how far the host's clock has moved on when step number `n` begins (10_state.md R31). Log 1; safe. -/
opaque freeElapsed : Nat → Nat

/-- Free value: the host's write of the key mask before step number `n`, if it makes one (10_state.md R29).
Logs 1 and 24; safe. -/
opaque freeKeys : Nat → Option Word16

end Sys2Proof.Config
end

