-- ==== Sys2Proof/Machine/Params.lean ====
section
/-! DEFINITION. The parameters the spec leaves open, as one argument of the machine, and their defaults (00_scope.md R8:
"Each is a named argument of the model, with the default this spec chose"). -/

namespace Sys2Proof.Machine

/-- The contents of a font table: 16 glyphs of 5 bytes, top row first (10_state.md R38). -/
abbrev Font := Vector Byte 80

/-- The open parameters of 00_scope.md R8. A machine is built with one value of each; nothing changes them afterwards. -/
structure Params where
  /-- `FONT`: what reset installs at 0x000..0x04F (10_state.md R38, R40; D7). -/
  font : Font
  /-- `TIME_BITS`: the width of `now` and of `last_tick` (D14). -/
  timeBits : Nat
  /-- `TICK_PERIOD`, as one less than it, since it is at least 1 (D14); `none` where the platform names none. -/
  tickPeriodPred : Option Nat
  /-- `KEY_PICK`, as the list of the masks for which it differs from the lowest key down, each with the key picked for it
  (D11). Every function from masks that are not 0 to keys that are down is one (`keyPick_any`). -/
  picks : List (Word16 × Fin 16)
  deriving DecidableEq, Repr

/-- The glyphs 0 to 7 of the default `FONT` (10_state.md R40). PRESUMED (the spec marks the bytes "from general knowledge,
not in source"), log 6; unsafe. -/
def fontLow : List Byte :=
  [0xF0#8, 0x90#8, 0x90#8, 0x90#8, 0xF0#8,
   0x20#8, 0x60#8, 0x20#8, 0x20#8, 0x70#8,
   0xF0#8, 0x10#8, 0xF0#8, 0x80#8, 0xF0#8,
   0xF0#8, 0x10#8, 0xF0#8, 0x10#8, 0xF0#8,
   0x90#8, 0x90#8, 0xF0#8, 0x10#8, 0x10#8,
   0xF0#8, 0x80#8, 0xF0#8, 0x10#8, 0xF0#8,
   0xF0#8, 0x80#8, 0xF0#8, 0x90#8, 0xF0#8,
   0xF0#8, 0x10#8, 0x20#8, 0x40#8, 0x40#8]

/-- The glyphs 8 to F of the default `FONT` (10_state.md R40). PRESUMED, log 6; unsafe. -/
def fontHigh : List Byte :=
  [0xF0#8, 0x90#8, 0xF0#8, 0x90#8, 0xF0#8,
   0xF0#8, 0x90#8, 0xF0#8, 0x10#8, 0xF0#8,
   0xF0#8, 0x90#8, 0xF0#8, 0x90#8, 0x90#8,
   0xE0#8, 0x90#8, 0xE0#8, 0x90#8, 0xE0#8,
   0xF0#8, 0x80#8, 0x80#8, 0x80#8, 0xF0#8,
   0xE0#8, 0x90#8, 0x90#8, 0x90#8, 0xE0#8,
   0xF0#8, 0x80#8, 0xF0#8, 0x80#8, 0xF0#8,
   0xF0#8, 0x80#8, 0xF0#8, 0x80#8, 0x80#8]

/-- The default of `FONT` (10_state.md R40). -/
def fontDefault : Font := ⟨(fontLow ++ fontHigh).toArray, rfl⟩

/-- The defaults of 00_scope.md R8: the customary font (log 6), 64 bits of time (log 8), no tick period (log 7), the
lowest key down (log 9). A statement that needs one of them names it. -/
def Params.default : Params := { font := fontDefault, timeBits := 64, tickPeriodPred := none, picks := [] }

/-- `TICK_PERIOD`: "natural, at least 1" (00_scope.md R8). -/
def Params.tickPeriod (p : Params) : Nat := p.tickPeriodPred.getD Config.tickPeriodPred + 1

/-- The lowest-numbered key down in a mask that is not 0 (46_keys_timers.md R203 (c)). -/
def lowestKey (mask : Word16) : Nat := ((List.range 16).find? (fun k => mask.getLsbD k)).getD 0

/-- `KEY_PICK`: of the keys down in a mask that is not 0, the one the parameter picks, or else the lowest-numbered one. That
default is DESIGN CHOICE of the spec (46_keys_timers.md R203 (c), D11), log 9; unsafe. -/
def keyPick (picks : List (Word16 × Fin 16)) (mask : Word16) : Nat :=
  match picks.find? (fun e => e.1 == mask && mask.getLsbD e.2.val) with
  | some e => e.2.val
  | none => lowestKey mask

end Sys2Proof.Machine
end

