-- ==== Sys2Proof/Machine/State.lean ====
section
/-! DEFINITION. The machine state: every piece of state of 10_state.md R20, the input and output ports of R35 that a step
reads and drives, and the model's own fields: the parameters, the supply of future inputs, whether the load is open; the ways a step can stop; the state after reset (R37). -/

namespace Sys2Proof.Machine

/-- Memory: the bytes that differ from the reset contents, as (address, byte) pairs, addresses strictly rising
(20_memory.md R60; the form is `Memory.wf`). -/
abbrev Memory := List Host.Cell

/-- The framebuffer: 32 rows of 64 pixels, `true` is lit; row `y` from the top, column `x` from the left
(10_state.md R28; 45_display.md R192). -/
abbrev Framebuffer := Vector (Vector Bool 64) 32

/-- The `err` output: what the step just finished reported (60_exceptions.md R210). The codes of D15 are `Report.code`. -/
inductive Report where
  /-- Nothing was reported. -/
  | none
  /-- `2NNN` on a full stack (60_exceptions.md R211). -/
  | stackOverflow
  /-- `00EE` on an empty stack (60_exceptions.md R212). -/
  | stackUnderflow
  /-- An unassigned encoding (60_exceptions.md R213). -/
  | unknownOpcode
  deriving DecidableEq, Repr

/-- What the host supplies for one later step (70_reset_and_hazards.md R251). -/
structure HostInput where
  /-- The random byte (10_state.md R30). -/
  rnd : Byte
  /-- How far `now` has moved on since the step before (10_state.md R31: `now` never decreases). -/
  elapsed : Nat
  /-- A write of the key mask before the step, if the host makes one (10_state.md R29). -/
  keys : Option Word16
  deriving DecidableEq, Repr

structure State where
  /-- Memory (20_memory.md R60). -/
  mem : Memory
  /-- V0 to VF (10_state.md R21, R22). -/
  V : Vector Byte 16
  /-- The index register (10_state.md R23). -/
  I : Word16
  /-- The program counter (10_state.md R24). -/
  pc : Word16
  /-- The stack entries, oldest first (10_state.md R25). -/
  stack : Vector Word16 16
  /-- The number of entries held, 0 to 16 (10_state.md R25; 90_conflicts.md C4). -/
  sp : Fin 17
  /-- The delay timer (10_state.md R26). -/
  dt : Byte
  /-- The sound timer (10_state.md R27). -/
  st : Byte
  /-- The framebuffer (10_state.md R28). -/
  fb : Framebuffer
  /-- The key mask, bit k set when key k is down (10_state.md R29). -/
  keys : Word16
  /-- `last_tick`: `now` when the timer gate last fired, a number below 2^`TIME_BITS` (10_state.md R31; the width is a parameter,
  00_scope.md R8, and no instruction can see it). -/
  lastTick : Nat
  /-- Input port: the random byte of the coming step (10_state.md R30, R35). Log 1. -/
  rnd : Byte
  /-- Input port: the clock reading of the coming step (10_state.md R31, R35). Log 1. -/
  now : Nat
  /-- Output port: the report of the step just finished (40_step_cycle.md R126). Log 19. -/
  err : Report
  /-- Output port: the step just finished used an address above 0xFFF (20_memory.md R65). Log 19. -/
  oob : Bool
  /-- The model's own: host inputs already fixed for the steps after the coming one, first one first. Log 1. -/
  inputs : List HostInput
  /-- The model's own: the number of steps run; it selects the free value of an input nothing fixes. Log 1. -/
  stepNo : Nat
  /-- The model's own: the parameters the machine is built with (00_scope.md R8), which no step and no move of the host changes
  (10_state.md R33: not state). Log 26. -/
  params : Params
  /-- The model's own: the program load is still open, after reset and before the first step, once
  (70_reset_and_hazards.md R243, R251). Log 21. -/
  loadOpen : Bool
  deriving DecidableEq, Repr

/-- The faults: none. "Every 16-bit word at `pc` has a defined step, so the machine is never stuck and never faults"
(40_step_cycle.md R129); the error kinds are reports, not faults (60_exceptions.md R215). -/
inductive Fault
  deriving DecidableEq, Repr

/-- The refusals: only the one that stands for an instruction without a meaning, and no instruction is without one. -/
inductive Refusal where
  /-- Raised by an arm of `exec` whose instruction has no meaning yet (none is left). Safe: the model stops. -/
  | notModelled (mnemonic : String)
  deriving DecidableEq, Repr

/-- What a meaning answers. -/
abbrev Result := Host.Outcome State Fault Refusal

/-- `rst` on a machine built with the parameters `p`, while the clock reads `now` (10_state.md R37; 70_reset_and_hazards.md R240).
From the source: `pc` = 0x200, `sp`, `dt`, `st` 0, the pixels unlit, memory its reset contents (nothing listed). The spec's own choice
(D5, D14): `V`, `I`, `keys` 0 and `last_tick` = `now` (logs 2, 4). DESIGN CHOICE of the model: the stack entries 0 (log 5), `rnd` 0
(log 2), no input listed and `stepNo` 0 (log 1); unsafe. -/
def State.resetWith (p : Params) (now : Nat) : State where
  mem := []
  V := Vector.replicate 16 0#8
  I := 0#16
  pc := Config.pcReset
  stack := Vector.replicate 16 0#16
  sp := 0
  dt := 0#8
  st := 0#8
  fb := Vector.replicate 32 (Vector.replicate 64 false)
  keys := 0#16
  lastTick := now
  rnd := 0#8
  now := now
  err := .none
  oob := false
  inputs := []
  stepNo := 0
  params := p
  loadOpen := true

/-- The reset of the machine with the default parameters (00_scope.md R8). -/
def State.resetAt (now : Nat) : State := State.resetWith Params.default now

/-- The machine right after reset: the default parameters, the host's clock reading 0 (DESIGN CHOICE, log 2; unsafe). -/
def State.reset : State := State.resetAt 0

end Sys2Proof.Machine
end

