-- ==== Sys2Proof/Machine/Flags.lean ====
section
/-! DEFINITION. The flag computations, all that the spec gives (10_state.md R22; 43_alu.md R166 to R170, R172): each is of
the values before the instruction, and VF receives 0 or 1. -/

namespace Sys2Proof.Machine

/-- A flag as the byte VF receives: "The value written is always 0 or 1" (10_state.md R22). -/
def flagByte (f : Bool) : Byte := if f then 1#8 else 0#8

/-- Carry of 8XY4: the unwrapped sum exceeds 255 (43_alu.md R166, R172). -/
def carryFlag (a b : Byte) : Bool := decide (a.toNat + b.toNat > 255)

/-- The flag of 8XY5 and 8XY7: the minuend is strictly greater, so 0 on equal operands (43_alu.md R167, R169, R172). -/
def greaterFlag (minuend subtrahend : Byte) : Bool := decide (minuend.toNat > subtrahend.toNat)

/-- The bit 8XY6 shifts out: bit 0 (43_alu.md R168). -/
def lowBitFlag (a : Byte) : Bool := a.getLsbD 0

/-- The bit 8XYE shifts out: bit 7 (43_alu.md R170). -/
def highBitFlag (a : Byte) : Bool := a.getLsbD 7

end Sys2Proof.Machine
end

