-- ==== Sys2Proof/Machine/Framebuffer.lean ====
section
/-! DEFINITION. The framebuffer: one pixel read and written, cleared, and the sprite blit of DXYN
(00_scope.md R18; 45_display.md R190 to R192). -/

namespace Sys2Proof.Machine

/-- `fb[y][x]` (00_scope.md R18). -/
def Framebuffer.pixel (fb : Framebuffer) (x : Fin 64) (y : Fin 32) : Bool := fb[y][x]

/-- `fb[y][x] <- b` (00_scope.md R18). -/
def Framebuffer.setPixel (fb : Framebuffer) (x : Fin 64) (y : Fin 32) (b : Bool) : Framebuffer :=
  fb.set y (fb[y].set x b)

/-- All 2048 pixels unlit (45_display.md R190). -/
def Framebuffer.clear : Framebuffer := Vector.replicate 32 (Vector.replicate 64 false)

/-- A column reduced modulo the width (45_display.md R191). -/
def wrapX (x : Nat) : Fin 64 := ⟨x % 64, Nat.mod_lt x (by decide)⟩

/-- A row reduced modulo the height (45_display.md R191; 90_conflicts.md C2). -/
def wrapY (y : Nat) : Fin 32 := ⟨y % 32, Nat.mod_lt y (by decide)⟩

/-- Column `c` (0 to 7) of a sprite byte: bit 7 is the leftmost (45_display.md R192). DESIGN CHOICE of the spec (D8),
log 16; unsafe. -/
def spriteBit (row : Byte) (c : Nat) : Bool := row.getLsbD (7 - c)

/-- XOR one sprite bit into the pixel at (x, y); the collision flag rises when the pixel goes from lit to unlit. -/
def blitPixel (bit : Bool) (x : Fin 64) (y : Fin 32) (acc : Framebuffer × Bool) : Framebuffer × Bool :=
  (acc.1.setPixel x y (acc.1.pixel x y ^^ bit), acc.2 || (bit && acc.1.pixel x y))

/-- The first `k` columns of one sprite byte, left to right, at column `x0` of row `y`. -/
def blitCols (row : Byte) (x0 : Nat) (y : Fin 32) : Nat → Framebuffer × Bool → Framebuffer × Bool
  | 0, acc => acc
  | k + 1, acc => blitPixel (spriteBit row k) (wrapX (x0 + k)) y (blitCols row x0 y k acc)

/-- The first `n` rows of a sprite, top to bottom, its corner at (`x0`, `y0`); `rowAt r` is its byte `r`
(45_display.md R191). -/
def blitRows (rowAt : Nat → Byte) (x0 y0 : Nat) : Nat → Framebuffer × Bool → Framebuffer × Bool
  | 0, acc => acc
  | n + 1, acc => blitCols (rowAt n) x0 (wrapY (y0 + n)) 8 (blitRows rowAt x0 y0 n acc)

end Sys2Proof.Machine
end

