-- ==== Sys2Proof/Machine/Memory.lean ====
section
/-! DEFINITION. Memory as data: what an unlisted address reads as, reading and writing one byte, and the canonical form
(20_memory.md R60, R61, R66, R67). Addresses here are already reduced to 0..4095. -/

namespace Sys2Proof.Machine

/-- What an address that is not listed reads as: its reset contents, the machine's `FONT` at 0x000..0x04F and 0x00 above
(10_state.md R37; 20_memory.md R61). -/
def Memory.unlisted (font : Font) (a : Nat) : Byte := if h : a < 80 then font[a] else 0#8

/-- The byte at an address. -/
def Memory.read (font : Font) : Memory → Nat → Byte
  | [], a => Memory.unlisted font a
  | (b, v) :: rest, a => if b = a then v else Memory.read font rest a

/-- The list without any entry for `a`. -/
def Memory.without (m : Memory) (a : Nat) : Memory := m.filter (fun c => c.1 != a)

/-- A new entry for `a`, before the first entry of a higher address. -/
def Memory.place (a : Nat) (v : Byte) : Memory → Memory
  | [] => [(a, v)]
  | (b, w) :: rest => if a < b then (a, v) :: (b, w) :: rest else (b, w) :: Memory.place a v rest

/-- `v` at `a`: the old entry goes, and a new one is made only where `v` differs from what `a` reads as unlisted. -/
def Memory.write (font : Font) (m : Memory) (a : Nat) (v : Byte) : Memory :=
  if v = Memory.unlisted font a then m.without a else Memory.place a v (m.without a)

/-- The canonical form above an address bound: every listed address is at least `lo` and below 4096, addresses rise
strictly, and no entry equals what its address reads as unlisted. -/
def Memory.wfFrom (font : Font) : Nat → Memory → Bool
  | _, [] => true
  | lo, (a, v) :: rest =>
    decide (lo ≤ a) && decide (a < Config.memSize) && (v != Memory.unlisted font a) && Memory.wfFrom font (a + 1) rest

/-- The canonical form of memory: equal memories are equal lists. -/
def Memory.wf (font : Font) (m : Memory) : Bool := Memory.wfFrom font 0 m

end Sys2Proof.Machine
end

