-- ==== Sys2Proof/Machine/Ops.lean ====
section
/-! DEFINITION. The shared operations over registers, memory and the stack, the report (all that stands for taking an
exception here), and the phases common to every step: the fetch, the timer gate, and the host's inputs for the next
step. -/

namespace Sys2Proof.Machine

/-! ### Registers (00_scope.md R15) -/

/-- `V[x]`. -/
def State.reg (s : State) (x : RegIdx) : Byte := s.V[x]

/-- `V[x] <- v`. No register is hard-wired (10_state.md R21). -/
def State.setReg (s : State) (x : RegIdx) (v : Byte) : State := { s with V := s.V.set x v }

/-- VF <- a flag (10_state.md R22). -/
def State.setFlag (s : State) (f : Bool) : State := s.setReg Config.flagReg (flagByte f)

/-- `I <- v`. -/
def State.setI (s : State) (v : Word16) : State := { s with I := v }

/-- `pc <- t`. -/
def State.setPc (s : State) (t : Word16) : State := { s with pc := t }

/-- `dt <- v`. -/
def State.setDt (s : State) (v : Byte) : State := { s with dt := v }

/-- `st <- v`. -/
def State.setSt (s : State) (v : Byte) : State := { s with st := v }

/-- The framebuffer as a whole. -/
def State.setFb (s : State) (fb : Framebuffer) : State := { s with fb := fb }

/-! ### Memory access (20_memory.md R65 to R67) -/

/-- An address as memory sees it: modulo 4096 (20_memory.md R65). DESIGN CHOICE of the spec (D3), log 10; unsafe. -/
def reduceAddr (a : Nat) : Nat := a % Config.memSize

/-- The byte `MemRead(a, 1)` returns (20_memory.md R66). -/
def State.peek (s : State) (a : Nat) : Byte := Memory.read s.params.font s.mem (reduceAddr a)

/-- An unreduced address above 0xFFF marks the step `oob` (20_memory.md R65). -/
def State.markOob (s : State) (a : Nat) : State := { s with oob := s.oob || decide (a > 0xFFF) }

/-- The marks of `n` accesses at `a`, `a + 1`, … (20_memory.md R64, R65). -/
def State.markOobRange (s : State) (a : Nat) : Nat → State
  | 0 => s
  | n + 1 => (s.markOobRange a n).markOob (a + n)

/-- `MemWrite(a, 1, v)` (20_memory.md R67). Nothing is write protected (R69). -/
def State.poke (s : State) (a : Nat) (v : Byte) : State :=
  { s.markOob a with mem := Memory.write s.params.font s.mem (reduceAddr a) v }

/-! ### The stack (10_state.md R25) -/

/-- A push, allowed only while fewer than 16 entries are held. -/
def State.push (s : State) (v : Word16) (h : s.sp.val < 16) : State :=
  { s with stack := s.stack.set s.sp.val v h, sp := ⟨s.sp.val + 1, Nat.succ_lt_succ h⟩ }

/-- The newest entry held. -/
def State.top (s : State) (h : 0 < s.sp.val) : Word16 :=
  s.stack[s.sp.val - 1]'(by have := s.sp.isLt; omega)

/-- The stack without its newest entry, which stays where it was but is no longer held. -/
def State.drop (s : State) : State := { s with sp := ⟨s.sp.val - 1, by have := s.sp.isLt; omega⟩ }

/-! ### Reports (00_scope.md R17; 60_exceptions.md R215 to R217) -/

/-- `report <Kind>`: "sets the step's error output `err` … and changes no architectural state". It is the whole of taking an
exception on this hardware: nothing is saved, no mode changes, no control is transferred (60_exceptions.md R216), and
there is no return from it (R217). -/
def State.report (s : State) (k : Report) : State := { s with err := k }

/-- The codes of the `err` output (60_exceptions.md R210). DESIGN CHOICE of the spec (D15), log 20; safe. -/
def Report.code : Report → BitVec 2
  | .none => 0#2
  | .stackOverflow => 1#2
  | .stackUnderflow => 2#2
  | .unknownOpcode => 3#2

/-! ### Skips (42_skip.md) -/

/-- `pc <- (pc + 2) mod 2^16` where the condition holds (42_skip.md R150). The wrap is D4, log 11. -/
def State.skipIf (s : State) (c : Bool) : State := s.setPc (if c then s.pc + 2#16 else s.pc)

/-! ### The fetch (40_step_cycle.md R122) -/

/-- The opcode at `pc`, high byte first (40_step_cycle.md R122; 20_memory.md R63, R66). -/
def State.fetchWord (s : State) : Word16 := s.peek s.pc.toNat ++ s.peek (s.pc.toNat + 1)

/-- The state in which EXECUTE begins: the outputs of the step before are gone (40_step_cycle.md R126), both bytes are read
(R122) and `pc` has moved on by 2 modulo 2^16. -/
def State.fetched (s : State) : State :=
  { s with
    pc := s.pc + 2#16
    err := .none
    oob := decide (s.pc.toNat > 0xFFF) || decide (s.pc.toNat + 1 > 0xFFF) }

/-! ### The timer gate (40_step_cycle.md R125) -/

/-- The gate's condition for a tick period: `(now - last_tick) mod 2^TIME_BITS >= TICK_PERIOD`. DESIGN CHOICE of the spec
(D14), log 17; unsafe. -/
def State.gateFires (s : State) (period : Nat) : Bool :=
  decide (period ≤ (s.now + (2 ^ s.params.timeBits - s.lastTick % 2 ^ s.params.timeBits)) % 2 ^ s.params.timeBits)

/-- One timer at the gate: 0 stays 0, another value falls by 1 when the gate fires (10_state.md R26, R27). -/
def tickTimer (fires : Bool) (t : Byte) : Byte := if t = 0#8 then 0#8 else if fires then t - 1#8 else t

/-- The TIMER phase for a tick period: both timers together, and `last_tick <- now` whether or not a timer was non-zero
(40_step_cycle.md R125; D14, D20). -/
def State.timerGateAt (s : State) (period : Nat) : State :=
  { s with
    dt := tickTimer (s.gateFires period) s.dt
    st := tickTimer (s.gateFires period) s.st
    lastTick := if s.gateFires period then s.now else s.lastTick }

/-- The TIMER phase at the machine's `TICK_PERIOD`. -/
def State.timerGate (s : State) : State := s.timerGateAt s.params.tickPeriod

/-! ### The host's inputs (10_state.md R29 to R31; 70_reset_and_hazards.md R251) -/

/-- A clock of `bits` bits moved on by `d` units, never past its width: the host's clock never decreases and never wraps
(10_state.md R31). Log 3. -/
def advanceClock (bits : Nat) (now : Nat) (d : Nat) : Nat := min (now + d) (2 ^ bits - 1)

/-- What the host supplies for step number `n` where no listed input fixes it: free values (log 1). -/
def freeInput (n : Nat) : HostInput := ⟨Config.freeRnd n, Config.freeElapsed n, Config.freeKeys n⟩

/-- What the host supplies for the next step: the first listed input, or else free values. -/
def State.nextInput (s : State) : HostInput := s.inputs.headD (freeInput (s.stepNo + 1))

/-- The host between two steps: it may write `keys`, its clock moves on, and it drives a new random byte
(70_reset_and_hazards.md R251). A step being over, the program load is no longer open (R243). Logs 1, 3, 21, 24. -/
def State.hostTurn (s : State) : State :=
  { s with
    rnd := s.nextInput.rnd
    now := advanceClock s.params.timeBits s.now s.nextInput.elapsed
    keys := s.nextInput.keys.getD s.keys
    inputs := s.inputs.tail
    stepNo := s.stepNo + 1
    loadOpen := false }

/-- What follows EXECUTE in every step, "whatever the instruction was and whether or not it reported an error"
(40_step_cycle.md R125): the timer gate, and then the host's turn (10_state.md R36). -/
def State.finish (s : State) : State := s.timerGate.hostTurn

end Sys2Proof.Machine
end

