-- ==== Sys2Proof/Machine/Alu.lean ====
section
/-! DEFINITION. Register loads, arithmetic, logic, shifts and random: 6XNN, 7XNN, 8XY0 to 8XYE, CXNN (43_alu.md). Arithmetic
is modulo 256 (R172). In the five instructions with a flag the flag is written last, so it stands when X = F (R173; DESIGN
CHOICE of the spec, D9, log 13; unsafe), and it is computed from the values before the instruction. -/

namespace Sys2Proof.Machine

/-- LD Vx, byte (43_alu.md R160). -/
def execLdImm (x : RegIdx) (nn : Byte) (s : State) : Result := .next (s.setReg x nn)

/-- ADD Vx, byte: VF is not written (43_alu.md R161; 90_conflicts.md C1). -/
def execAddImm (x : RegIdx) (nn : Byte) (s : State) : Result := .next (s.setReg x (s.reg x + nn))

/-- LD Vx, Vy (43_alu.md R162). -/
def execLdReg (x y : RegIdx) (s : State) : Result := .next (s.setReg x (s.reg y))

/-- OR Vx, Vy: VF is not written (43_alu.md R163). -/
def execOrReg (x y : RegIdx) (s : State) : Result := .next (s.setReg x (s.reg x ||| s.reg y))

/-- AND Vx, Vy: VF is not written (43_alu.md R164). -/
def execAndReg (x y : RegIdx) (s : State) : Result := .next (s.setReg x (s.reg x &&& s.reg y))

/-- XOR Vx, Vy: VF is not written (43_alu.md R165). -/
def execXorReg (x y : RegIdx) (s : State) : Result := .next (s.setReg x (s.reg x ^^^ s.reg y))

/-- ADD Vx, Vy: VF <- carry (43_alu.md R166). -/
def execAddReg (x y : RegIdx) (s : State) : Result :=
  .next ((s.setReg x (s.reg x + s.reg y)).setFlag (carryFlag (s.reg x) (s.reg y)))

/-- SUB Vx, Vy: VF <- (VX > VY) (43_alu.md R167). -/
def execSubReg (x y : RegIdx) (s : State) : Result :=
  .next ((s.setReg x (s.reg x - s.reg y)).setFlag (greaterFlag (s.reg x) (s.reg y)))

/-- SHR Vx: VF <- bit 0; VY is not used (43_alu.md R168). -/
def execShr (x : RegIdx) (s : State) : Result :=
  .next ((s.setReg x (s.reg x >>> 1)).setFlag (lowBitFlag (s.reg x)))

/-- SUBN Vx, Vy: VX <- VY - VX, VF <- (VY > VX) (43_alu.md R169). -/
def execSubnReg (x y : RegIdx) (s : State) : Result :=
  .next ((s.setReg x (s.reg y - s.reg x)).setFlag (greaterFlag (s.reg y) (s.reg x)))

/-- SHL Vx: VF <- bit 7; VY is not used (43_alu.md R170). -/
def execShl (x : RegIdx) (s : State) : Result :=
  .next ((s.setReg x (s.reg x <<< 1)).setFlag (highBitFlag (s.reg x)))

/-- RND Vx, byte: the step's random byte AND NN (43_alu.md R171). -/
def execRnd (x : RegIdx) (nn : Byte) (s : State) : Result := .next (s.setReg x (s.rnd &&& nn))

end Sys2Proof.Machine
end

