-- ==== Sys2Proof/Machine/Operands.lean ====
section
/-! DEFINITION. The operand forms beyond a register and an immediate: addresses computed from `I` and from V0, the font
address, decimal digits, the key a register selects, the block transfers of FX55 and FX65 (30_encoding.md R92;
44_index_memory.md; 46_keys_timers.md). -/

namespace Sys2Proof.Machine

/-- The unreduced effective address of byte `k` of an access: `I + k`, without wrapping (44_index_memory.md; 20_memory.md
R65). -/
def State.dataAddr (s : State) (k : Nat) : Nat := s.I.toNat + k

/-- The target of BNNN: NNN + V0, at most 0x10FE, not reduced (41_flow.md R144). -/
def State.v0Target (s : State) (nnn : Addr12) : Word16 := zext12 nnn + zext8 (s.reg 0)

/-- The address FX29 computes: VX x 5, VX not masked (44_index_memory.md R182). -/
def glyphAddr (v : Byte) : Word16 := zext8 v * BitVec.ofNat 16 Config.glyphBytes

/-- The hundreds digit, 0 to 2 (44_index_memory.md R183). -/
def hundreds (v : Byte) : Byte := v / 100#8

/-- The tens digit, 0 to 9 (44_index_memory.md R183). -/
def tens (v : Byte) : Byte := (v / 10#8) % 10#8

/-- The units digit, 0 to 9 (44_index_memory.md R183). -/
def units (v : Byte) : Byte := v % 10#8

/-- The key a register value selects: its low 4 bits (46_keys_timers.md R200). DESIGN CHOICE of the spec (D12), log 15;
unsafe. -/
def keyOf (v : Byte) : Nat := (v.extractLsb' 0 4).toNat

/-- `keys[k] == 1`: the key that VX selects is down (46_keys_timers.md R200). -/
def State.keyDown (s : State) (x : RegIdx) : Bool := s.keys.getLsbD (keyOf (s.reg x))

/-- The first `n` stores of FX55, V0 at `I`, ascending (44_index_memory.md R184). -/
def State.storeBlock (s : State) : (n : Nat) → n ≤ 16 → State
  | 0, _ => s
  | k + 1, h => (s.storeBlock k (Nat.le_of_succ_le h)).poke (s.dataAddr k) (s.reg ⟨k, h⟩)

/-- The first `n` loads of FX65, V0 from `I`, ascending (44_index_memory.md R185). -/
def State.loadBlock (s : State) : (n : Nat) → n ≤ 16 → State
  | 0, _ => s
  | k + 1, h => ((s.loadBlock k (Nat.le_of_succ_le h)).setReg ⟨k, h⟩ (s.peek (s.dataAddr k))).markOob (s.dataAddr k)

end Sys2Proof.Machine
end

