-- ==== Sys2Proof/Machine/Display.lean ====
section
/-! DEFINITION. Display: 00E0, DXYN (45_display.md). -/

namespace Sys2Proof.Machine

/-- CLS (45_display.md R190). -/
def execCls (s : State) : Result := .next (s.setFb Framebuffer.clear)

/-- The sprite of a DXYN as drawn: the new framebuffer and the collision flag (45_display.md R191). Position and bytes are
those before VF is written. -/
def State.drawSprite (s : State) (x y : RegIdx) (n : Nibble) : Framebuffer × Bool :=
  blitRows (fun r => s.peek (s.dataAddr r)) (s.reg x).toNat (s.reg y).toNat n.toNat (s.fb, false)

/-- DRW Vx, Vy, nibble: N bytes read at `I`, XOR into the framebuffer, VF <- collision, also when N = 0
(45_display.md R191). -/
def execDrw (x y : RegIdx) (n : Nibble) (s : State) : Result :=
  .next (((s.markOobRange (s.dataAddr 0) n.toNat).setFb (s.drawSprite x y n).1).setFlag (s.drawSprite x y n).2)

end Sys2Proof.Machine
end

