-- ==== Sys2Proof/Machine/Flow.lean ====
section
/-! DEFINITION. Control transfer: 00EE, 0NNN, 1NNN, 2NNN, BNNN (41_flow.md). `pc` has already moved past the
instruction (40_step_cycle.md R122). -/

namespace Sys2Proof.Machine

/-- RET: on an empty stack StackUnderflow is reported and nothing changes, else the newest entry goes to `pc`
(41_flow.md R140; 60_exceptions.md R212). -/
def execRet (s : State) : Result :=
  .next (if h : 0 < s.sp.val then s.drop.setPc (s.top h) else s.report .stackUnderflow)

/-- SYS addr: a jump to NNN (41_flow.md R141). -/
def execSys (nnn : Addr12) (s : State) : Result := .next (s.setPc (zext12 nnn))

/-- JP addr (41_flow.md R142). -/
def execJp (nnn : Addr12) (s : State) : Result := .next (s.setPc (zext12 nnn))

/-- CALL addr: on a full stack StackOverflow is reported and nothing changes, else `pc` is pushed and NNN goes to `pc`
(41_flow.md R143; 60_exceptions.md R211). -/
def execCall (nnn : Addr12) (s : State) : Result :=
  .next (if h : s.sp.val < 16 then (s.push s.pc h).setPc (zext12 nnn) else s.report .stackOverflow)

/-- JP V0, addr (41_flow.md R144). -/
def execJpV0 (nnn : Addr12) (s : State) : Result := .next (s.setPc (s.v0Target nnn))

end Sys2Proof.Machine
end

