-- ==== Sys2Proof/Machine/IndexMemory.lean ====
section
/-! DEFINITION. Index register and memory: ANNN, FX1E, FX29, FX33, FX55, FX65 (44_index_memory.md). No access changes `I`. -/

namespace Sys2Proof.Machine

/-- LD I, addr (44_index_memory.md R180). -/
def execLdI (nnn : Addr12) (s : State) : Result := .next (s.setI (zext12 nnn))

/-- ADD I, Vx, modulo 2^16; VF is not written (44_index_memory.md R181). The wrap is DESIGN CHOICE of the spec (D4),
log 11; unsafe. -/
def execAddI (x : RegIdx) (s : State) : Result := .next (s.setI (s.I + zext8 (s.reg x)))

/-- LD F, Vx (44_index_memory.md R182). -/
def execLdF (x : RegIdx) (s : State) : Result := .next (s.setI (glyphAddr (s.reg x)))

/-- LD B, Vx: hundreds, tens, units at `I`, `I + 1`, `I + 2` (44_index_memory.md R183). -/
def execLdB (x : RegIdx) (s : State) : Result :=
  .next (((s.poke (s.dataAddr 0) (hundreds (s.reg x))).poke (s.dataAddr 1) (tens (s.reg x))).poke
    (s.dataAddr 2) (units (s.reg x)))

/-- LD [I], Vx: V0 to VX to memory at `I` (44_index_memory.md R184). -/
def execStoreRegs (x : RegIdx) (s : State) : Result := .next (s.storeBlock (x.val + 1) x.isLt)

/-- LD Vx, [I]: V0 to VX from memory at `I` (44_index_memory.md R185). -/
def execLoadRegs (x : RegIdx) (s : State) : Result := .next (s.loadBlock (x.val + 1) x.isLt)

end Sys2Proof.Machine
end

