-- ==== Sys2Proof/Machine/KeysTimers.lean ====
section
/-! DEFINITION. Keys and timers: EX9E, EXA1, FX07, FX0A, FX15, FX18 (46_keys_timers.md). -/

namespace Sys2Proof.Machine

/-- SKP Vx: skip if the key is down (46_keys_timers.md R200). -/
def execSkp (x : RegIdx) (s : State) : Result := .next (s.skipIf (s.keyDown x))

/-- SKNP Vx: skip if the key is up (46_keys_timers.md R201). -/
def execSknp (x : RegIdx) (s : State) : Result := .next (s.skipIf (!s.keyDown x))

/-- LD Vx, DT: the delay timer before this step's gate (46_keys_timers.md R202). -/
def execLdVxDt (x : RegIdx) (s : State) : Result := .next (s.setReg x s.dt)

/-- LD Vx, K: with no key down `pc` goes back to this instruction, else VX receives a pressed key's index
(46_keys_timers.md R203). -/
def execLdVxK (x : RegIdx) (s : State) : Result :=
  .next (if s.keys = 0#16 then s.setPc (s.pc - 2#16) else s.setReg x (BitVec.ofNat 8 (keyPick s.params.picks s.keys)))

/-- LD DT, Vx (46_keys_timers.md R204). -/
def execLdDtVx (x : RegIdx) (s : State) : Result := .next (s.setDt (s.reg x))

/-- LD ST, Vx (46_keys_timers.md R205). -/
def execLdStVx (x : RegIdx) (s : State) : Result := .next (s.setSt (s.reg x))

end Sys2Proof.Machine
end

