-- ==== Sys2Proof/Machine/Unassigned.lean ====
section
/-! DEFINITION. The five classes of unassigned encodings: "a no-operation that is reported" (30_encoding.md R96, R97;
60_exceptions.md R213). DESIGN CHOICE of the spec (D10), log 14: for the classes 5 and 9 the literal 0 of the pattern is read as a
sub-selector; unsafe. -/

namespace Sys2Proof.Machine

/-- `5XYN`, N != 0 (30_encoding.md R97). -/
def execUnassigned5 (s : State) : Result := .next (s.report .unknownOpcode)

/-- `8XYN`, N in 8..D or F (30_encoding.md R97). -/
def execUnassigned8 (s : State) : Result := .next (s.report .unknownOpcode)

/-- `9XYN`, N != 0 (30_encoding.md R97). -/
def execUnassigned9 (s : State) : Result := .next (s.report .unknownOpcode)

/-- `EXNN`, NN not 9E or A1 (30_encoding.md R97). -/
def execUnassignedE (s : State) : Result := .next (s.report .unknownOpcode)

/-- `FXNN`, NN not one of the nine assigned (30_encoding.md R97). -/
def execUnassignedF (s : State) : Result := .next (s.report .unknownOpcode)

end Sys2Proof.Machine
end

