-- ==== Sys2Proof/Machine/HostPort.lean ====
section
/-! DEFINITION. What the host may do between steps (70_reset_and_hazards.md R251; 10_state.md R35, R36): assert `rst`, load a
program, write the keys, drive the clock and the random byte, read a pixel, hear the tone. `HostMove` says that its moves
are exactly these. -/

namespace Sys2Proof.Machine

/-- `rst` asserted on a machine (70_reset_and_hazards.md R240): every piece of the Machine State takes its reset value
(10_state.md R37), `last_tick` the clock's reading, and the load opens. The parameters are the machine's, and what the host drives
(`rnd`, `now`) and the model's supply of inputs are the host's: they stay. -/
def assertReset (s : State) : State :=
  { State.resetWith s.params s.now with rnd := s.rnd, inputs := s.inputs, stepNo := s.stepNo }

/-- The load port: one byte of memory (10_state.md R35: `ld_we`, `ld_addr`, `ld_data`; the 12-bit address makes one above 0xFFF
unrepresentable). It takes a proof that the load is open and the address not below 0x200: a write at another time or place is outside
the spec (70_reset_and_hazards.md R243) and the model has none. It is no step, so it marks nothing. -/
def loadByte (a : Addr12) (b : Byte) (s : State) (_ : s.loadOpen = true ∧ Config.progBase ≤ a.toNat) : State :=
  { s with mem := Memory.write s.params.font s.mem a.toNat b }

/-- Bytes loaded one after the other from address `a` on, all of them from 0x200 to 0xFFF. -/
def loadBytes (a : Nat) : (image : List Byte) → (s : State) →
    s.loadOpen = true ∧ Config.progBase ≤ a ∧ a + image.length ≤ Config.memSize → State
  | [], s, _ => s
  | b :: rest, s, h =>
    have hl : a + (rest.length + 1) ≤ 4096 := h.2.2
    loadBytes (a + 1) rest
      (loadByte (BitVec.ofNat 12 a) b s
        ⟨h.1, by rw [BitVec.toNat_ofNat, Nat.mod_eq_of_lt (by omega)]; exact h.2.1⟩)
      ⟨h.1, Nat.le_succ_of_le h.2.1, by show a + 1 + rest.length ≤ 4096; omega⟩

/-- Why a program load fails (60_exceptions.md R210, R214; 90_conflicts.md C6: the union of the source's two lists). -/
inductive LoadFailure where
  /-- The source of the image is unreadable or absent. Raised by `loadProgram`; safe: it is the spec's own error. -/
  | unreadable
  /-- The image is longer than 3584 bytes. Raised by `loadProgram`; safe: it is the spec's own error. -/
  | oversized
  deriving DecidableEq, Repr

/-- The program load: an image of at most 3584 bytes goes to 0x200 upward, a failure writes nothing
(70_reset_and_hazards.md R243); the empty source is one that is unreadable or absent. It takes a proof that the load is open: "a model
gives the host no such move" in a running machine. A load that succeeds closes it (R251: once). Log 21. -/
def loadProgram (source : Option (List Byte)) (s : State) (h : s.loadOpen = true) : Except LoadFailure State :=
  match source with
  | none => .error .unreadable
  | some image =>
    if hl : image.length ≤ Config.progMax then
      .ok { loadBytes Config.progBase image s
              ⟨h, Nat.le_refl _, Nat.add_le_add_left hl Config.progBase⟩ with loadOpen := false }
    else .error .oversized

/-- `keys_we`, `keys_d`: all 16 bits of the key mask (10_state.md R29, R35). -/
def writeKeys (mask : Word16) (s : State) : State := { s with keys := mask }

/-- The host drives the two inputs of the coming step: the random byte, and its clock moved on by `d` units
(10_state.md R30, R31). -/
def driveInputs (r : Byte) (d : Nat) (s : State) : State :=
  { s with rnd := r, now := advanceClock s.params.timeBits s.now d }

/-- The moves of the host between steps that change anything, and no others: "A model gives the host exactly these moves"
(70_reset_and_hazards.md R251). A load that fails changes nothing. Log 21. -/
inductive HostMove (s : State) : State → Prop where
  /-- Assert `rst`, at any time. -/
  | reset : HostMove s (assertReset s)
  /-- Load a program, after reset and before the first step, once. -/
  | load (image : List Byte) (t : State) (h : s.loadOpen = true) :
      loadProgram (some image) s h = .ok t → HostMove s t
  /-- Rewrite all 16 bits of `keys`. -/
  | keys (mask : Word16) : HostMove s (writeKeys mask s)
  /-- Supply any random byte, and any clock reading not below the last. -/
  | inputs (r : Byte) (d : Nat) : HostMove s (driveInputs r d s)

/-- The host's inputs for the steps after the coming one, said beforehand: the key writes and driven inputs they stand for are moves
it has anyway (log 1). -/
def State.withInputs (s : State) (l : List HostInput) : State := { s with inputs := l }

/-- `fb_q = fb[fb_y][fb_x]` (10_state.md R35). -/
def readPixel (s : State) (x : Fin 64) (y : Fin 32) : Bool := s.fb.pixel x y

/-- The tone is on while the sound timer is not 0 (60_exceptions.md R224). -/
def toneOn (s : State) : Bool := s.st != 0#8

end Sys2Proof.Machine
end

