-- ==== Sys2Proof/Machine/Placement.lean ====
section
/-! DEFINITION. A state in which a given word is the next instruction, for statements and tests about one step. It is no move of
the host and no part of a step. -/

namespace Sys2Proof.Machine

/-- The state that differs from `s` in the two bytes the next step fetches, which hold `w`, high byte first (20_memory.md R63,
R65). Log 21. -/
def State.placeWord (s : State) (w : Word16) : State :=
  { s with
    mem := Memory.write s.params.font
      (Memory.write s.params.font s.mem (reduceAddr s.pc.toNat) (highByte w)) (reduceAddr (s.pc.toNat + 1)) (lowByte w) }

end Sys2Proof.Machine
end

