-- ==== Sys2Proof/Machine/Step.lean ====
section
/-! DEFINITION. One step: FETCH, DECODE, EXECUTE, TIMER, then the host's inputs for the next step (40_step_cycle.md R120 to
R126); and the state in which a given word is the next instruction. -/

namespace Sys2Proof.Machine

/-- One step, an atomic transition (40_step_cycle.md R121, R129). -/
def step (s : State) : Host.Outcome State Fault Refusal :=
  match exec (decodeWord s.fetchWord) s.fetched with
  | .next t => .next t.finish
  | .fault r => .fault r
  | .refused r => .refused r

/-- The word of `tableWord` stored high byte first where the next step fetches (20_memory.md R63, R65). After reset it gives the
bytes that the host's program load of that word would (log 21). -/
def State.withFetchWord (s : State) (nbits w : Nat) : State := s.placeWord (tableWord nbits w)

end Sys2Proof.Machine
end

