-- ==== Sys2Proof/Safety.lean ====
section
/-! DEFINITION. What a good state is, and the words claims are stated in: what may differ between the states before and
after an instruction, which registers and bytes an instruction writes, and an instruction run several times. -/

namespace Sys2Proof.Machine

/-- The states of runs: memory is in canonical form (so a listed address lies in 0..0xFFF), the clock has not gone back
behind the last firing of the timer gate (10_state.md R31: the host's clock never decreases), and its reading fits its width. -/
structure State.Good (s : State) : Prop where
  memWf : Memory.wf s.params.font s.mem = true
  clock : s.lastTick ≤ s.now
  width : s.now < 2 ^ s.params.timeBits

/-! ### Frames: `t` differs from `s` in the named parts only, and every byte of memory reads as before -/

/-- Every byte of memory reads as before. -/
def SameMemory (s t : State) : Prop := ∀ a, t.peek a = s.peek a

/-- Only general registers may differ. -/
def OnlyRegsDiffer (s t : State) : Prop := SameMemory s t ∧ t = { s with V := t.V }

/-- Only the program counter may differ. -/
def OnlyPcDiffers (s t : State) : Prop := SameMemory s t ∧ t = { s with pc := t.pc }

/-- Only the index register may differ. -/
def OnlyIDiffers (s t : State) : Prop := SameMemory s t ∧ t = { s with I := t.I }

/-- Only the report may differ. -/
def OnlyErrDiffers (s t : State) : Prop := SameMemory s t ∧ t = { s with err := t.err }

/-- Every general register but those `p` holds of is as before. -/
def RegsKeptBut (p : RegIdx → Prop) (s t : State) : Prop := ∀ r, ¬ p r → t.reg r = s.reg r

/-! ### The timer gate -/

/-- A whole tick period has passed since the gate last fired (40_step_cycle.md R125). -/
abbrev State.PeriodOver (s : State) (period : Nat) : Prop := s.lastTick + period ≤ s.now

/-- `t` is what the gate leaves of `s`: before the period is over nothing has changed; after it each timer that is not 0 is lower by 1,
`last_tick` is `now`, and nothing else has changed (40_step_cycle.md R125). -/
def GateTicks (period : Nat) (s t : State) : Prop :=
  (¬ s.PeriodOver period → t = s) ∧
  (s.PeriodOver period → t.dt.toNat = s.dt.toNat - 1 ∧ t.st.toNat = s.st.toNat - 1 ∧
    t = { s with dt := t.dt, st := t.st, lastTick := s.now })

/-- A clock and a time of the last firing as the host's protocol gives them: not later than the clock, and of its width
(10_state.md R31). -/
structure State.ClockOk (s : State) : Prop where
  clock : s.lastTick ≤ s.now
  width : s.now < 2 ^ s.params.timeBits

/-! ### What an instruction writes -/

/-- The general registers an instruction names as destination or writes besides (10_state.md R20, R22: VF by 8XY4, 8XY5, 8XY6,
8XY7, 8XYE and DXYN; V0 to VX by FX65). -/
def writesReg (i : Instr) (r : RegIdx) : Bool :=
  match i with
  | .ldImm x _ | .addImm x _ | .ldReg x _ | .orReg x _ | .andReg x _ | .xorReg x _ | .rnd x _
  | .ldVxDt x | .ldVxK x => r == x
  | .addReg x _ | .subReg x _ | .shr x _ | .subnReg x _ | .shl x _ => r == x || r == Config.flagReg
  | .drw _ _ _ => r == Config.flagReg
  | .loadRegs x => decide (r ≤ x)
  | .cls | .ret | .sys _ | .jp _ | .call _ | .seImm _ _ | .sneImm _ _ | .seReg _ _ | .unassigned5 _ _ _
  | .unassigned8 _ _ _ | .sneReg _ _ | .unassigned9 _ _ _ | .ldI _ | .jpV0 _ | .skp _ | .sknp _
  | .unassignedE _ _ | .ldDtVx _ | .ldStVx _ | .addI _ | .ldF _ | .ldB _ | .storeRegs _
  | .unassignedF _ _ => false

/-- How many bytes an instruction stores, from `I` upward: 3 by FX33, X + 1 by FX55 (20_memory.md R64). -/
def storeCount : Instr → Nat
  | .ldB _ => 3
  | .storeRegs x => x.val + 1
  | .cls | .ret | .sys _ | .jp _ | .call _ | .seImm _ _ | .sneImm _ _ | .seReg _ _ | .unassigned5 _ _ _
  | .ldImm _ _ | .addImm _ _ | .ldReg _ _ | .orReg _ _ | .andReg _ _ | .xorReg _ _ | .addReg _ _ | .subReg _ _
  | .shr _ _ | .subnReg _ _ | .shl _ _ | .unassigned8 _ _ _ | .sneReg _ _ | .unassigned9 _ _ _ | .ldI _
  | .jpV0 _ | .rnd _ _ | .drw _ _ _ | .skp _ | .sknp _ | .unassignedE _ _ | .ldVxDt _ | .ldVxK _ | .ldDtVx _
  | .ldStVx _ | .addI _ | .ldF _ | .loadRegs _ | .unassignedF _ _ => 0

/-- The byte at address `a` is one that the instruction stores to in state `s`. -/
def StoredTo (i : Instr) (s : State) (a : Nat) : Prop :=
  ∃ k, k < storeCount i ∧ reduceAddr (s.dataAddr k) = reduceAddr a

/-! ### Runs -/

/-- The EXECUTE phase of one instruction `n` times in a row. -/
def execTimes (i : Instr) : Nat → State → Result
  | 0, s => .next s
  | n + 1, s =>
    match execTimes i n s with
    | .next t => exec i t
    | .fault r => .fault r
    | .refused r => .refused r

/-- The state after `n` steps in a row. -/
def stepTimes : Nat → State → Result
  | 0, s => .next s
  | n + 1, s =>
    match stepTimes n s with
    | .next t => step t
    | .fault r => .fault r
    | .refused r => .refused r

/-- "The state is final when the two bytes at `pc` are a `1NNN` whose NNN equals `pc` … and `pc` is at most 0xFFF"
(70_reset_and_hazards.md R250; a definition of the spec's own, D19). -/
def State.SpinsForever (s : State) : Prop :=
  s.pc.toNat ≤ 0xFFF ∧ s.fetchWord = wordNNN 0x1#4 (s.pc.setWidth 12)

/-! ### Sprites, pixel by pixel -/

/-- The bit that a DXYN in state `s` brings to the pixel (`px`, `py`): the pixel's column and row in the sprite, counted
from the corner with wrap-around, select the bit; outside the 8 columns and `n` rows it is 0 (45_display.md R191, R192). -/
def spriteCover (s : State) (x y : RegIdx) (n : Nibble) (px : Fin 64) (py : Fin 32) : Bool :=
  let c := (px.val + 256 - (s.reg x).toNat) % 64
  let r := (py.val + 256 - (s.reg y).toNat) % 32
  decide (c < 8) && decide (r < n.toNat) && (s.peek (s.I.toNat + r)).getLsbD (7 - c)

end Sys2Proof.Machine
end

