-- ==== Sys2Proof/Certificates/Slice0/Obligations.lean ====
section
/-! DEFINITION. The statements for the provers. In a statement about `exec`, `s` is the state EXECUTE begins in: `pc` is already the
address of the instruction plus 2 (40_step_cycle.md R122). "Log n" is notes/assumptions/n.md. -/

open Sys2Proof Sys2Proof.Machine

/-! ### Encoding -/

/-- Decoding the bytes of a well-formed instruction gives it back, every operand at every value, and leaves the bytes that
follow (30_encoding.md R90, R91, R94, R96). -/
def Obligations.DecodeOfEncodeIsTheInstruction : Prop :=
  ∀ (i : Instr) (rest : List Byte), i.wf = true → decode (encode i ++ rest) = .ok (i, rest)

/-- Every 16-bit word decodes to a well-formed instruction, and is the one word that encodes it (30_encoding.md R93: the decoder
is total). -/
def Obligations.EveryWordIsOneInstruction : Prop :=
  ∀ w : Word16, (decodeWord w).wf = true ∧ encodeWord (decodeWord w) = w

/-- Decoding is by the first row of the opcode map that matches, and every word matches some row (30_encoding.md R93, R94). -/
def Obligations.FirstMatchingRowDecodes : Prop :=
  ∀ w : Word16, ∃ r : OpcodeRow,
    opcodeTable.find? (fun row => row.selects w) = some r ∧ decodeWord w = r.build w

/-- Group 0 (30_encoding.md R95): 0x00E0 is CLS, 0x00EE is RET, and every other word up to 0x0FFF executes as a jump to its NNN. -/
def Obligations.GroupZeroWords : Prop :=
  decodeWord 0x00E0#16 = .cls ∧ decodeWord 0x00EE#16 = .ret ∧
  ∀ w : Word16, w.toNat ≤ 0x0FFF → w ≠ 0x00E0#16 → w ≠ 0x00EE#16 →
    decodeWord w = .sys (w.setWidth 12) ∧ ∀ s : State, exec (decodeWord w) s = .next { s with pc := w }

/-- The unassigned encodings are exactly the words of the five classes (30_encoding.md R96; that groups 5 and 9 have such words is
the spec's decision D10, log 14). -/
def Obligations.UnassignedWordsAreTheFiveClasses : Prop :=
  ∀ w : Word16, (decodeWord w).isUnassigned = true ↔
    ((fieldTop w = 0x5 ∧ fieldN w ≠ 0x0#4) ∨
     (fieldTop w = 0x8 ∧ fieldN w ∈ [0x8#4, 0x9#4, 0xA#4, 0xB#4, 0xC#4, 0xD#4, 0xF#4]) ∨
     (fieldTop w = 0x9 ∧ fieldN w ≠ 0x0#4) ∨
     (fieldTop w = 0xE ∧ fieldNN w ∉ [0x9E#8, 0xA1#8]) ∨
     (fieldTop w = 0xF ∧
      fieldNN w ∉ [0x07#8, 0x0A#8, 0x15#8, 0x18#8, 0x1E#8, 0x29#8, 0x33#8, 0x55#8, 0x65#8]))

/-- Words written out from the patterns of 30_encoding.md R94 decode to what their rows say, one for each family. -/
def Obligations.WrittenOutWordsDecode : Prop :=
  decodeWord 0x234A#16 = .call 0x34A#12 ∧ decodeWord 0x9AB0#16 = .sneReg 0xA 0xB ∧
  decodeWord 0x8125#16 = .subReg 1 2 ∧ decodeWord 0xC70F#16 = .rnd 7 0x0F#8 ∧
  decodeWord 0xF355#16 = .storeRegs 3 ∧ decodeWord 0xD12F#16 = .drw 1 2 0xF#4 ∧
  decodeWord 0xE4A1#16 = .sknp 4 ∧ decodeWord 0xF518#16 = .ldStVx 5 ∧
  decodeWord 0x8128#16 = .unassigned8 1 2 0x8#4

/-! ### The step -/

/-- A step runs the decoded instruction: where the two bytes at `pc` decode to `i`, the step is the EXECUTE phase of `i` in the state
whose `pc` has moved on by 2, with the outputs of the step before gone and `oob` marked by the fetch, then the timer gate, then the
host's turn (40_step_cycle.md R120 to R126; the reduction and marking of addresses is D3, log 10; the host's turn is the model's,
log 1). -/
def Obligations.StepRunsTheDecodedInstruction : Prop :=
  ∀ (s : State) (i : Instr), i.wf = true →
    decode [s.peek s.pc.toNat, s.peek (s.pc.toNat + 1)] = .ok (i, []) →
    step s =
      match exec i { s with pc := s.pc + 2#16, err := .none, oob := decide (s.pc.toNat + 1 > 0xFFF) } with
      | .next t => .next t.timerGate.hostTurn
      | .fault r => .fault r
      | .refused r => .refused r

/-- Every state has a next state: "the machine is never stuck and never faults" (40_step_cycle.md R129). -/
def Obligations.EveryStepAnswersNext : Prop :=
  ∀ s : State, ∃ t : State, step s = .next t

/-- The invariant that every step keeps: memory is in canonical form, the last firing of the timer gate is not later than the clock, and
the clock fits its width (the host's clock never decreases or wraps, 10_state.md R31, log 3). -/
def Obligations.StepKeepsGoodStates : Prop :=
  ∀ s t : State, s.Good → step s = .next t → t.Good

/-- The state after reset is good, whatever the parameters are and whatever a clock of that width reads then. -/
def Obligations.ResetIsGood : Prop :=
  (∀ (p : Params) (now : Nat), now < 2 ^ p.timeBits → (State.resetWith p now).Good) ∧ core.reset.Good

/-- Reset, for all parameters (10_state.md R37; 00_scope.md R8): from the source, the machine's `FONT` at 0x000..0x04F, zeroes above it,
`pc` 0x200, an empty stack, both timers 0 and every pixel unlit; by the spec's own decisions D5 and D14 (logs 2, 4) the registers, `I`
and `keys` 0 and `last_tick` the clock's reading; no report and no `oob` mark. The reset of the core has the default parameters. `rst` on any machine at any time (70_reset_and_hazards.md
R240) gives that state, at its parameters and its clock's reading; only what the host drives and the model's supply of inputs stay
(log 1). -/
def Obligations.ResetState : Prop :=
  (∀ (p : Params) (now : Nat),
    (∀ a (h : a < 80), (State.resetWith p now).peek a = p.font[a]) ∧
    (∀ a, 80 ≤ a → a < 4096 → (State.resetWith p now).peek a = 0#8) ∧
    (State.resetWith p now).pc = 0x200#16 ∧ (State.resetWith p now).sp = 0 ∧
    (State.resetWith p now).dt = 0#8 ∧ (State.resetWith p now).st = 0#8 ∧
    (∀ x y, (State.resetWith p now).fb.pixel x y = false) ∧
    (∀ r, (State.resetWith p now).reg r = 0#8) ∧ (State.resetWith p now).I = 0#16 ∧
    (State.resetWith p now).keys = 0#16 ∧ (State.resetWith p now).lastTick = now ∧
    (State.resetWith p now).err = .none ∧ (State.resetWith p now).oob = false) ∧
  core.reset = State.resetWith Params.default 0 ∧
  ∀ s : State, assertReset s =
    { State.resetWith s.params s.now with rnd := s.rnd, inputs := s.inputs, stepNo := s.stepNo }

/-- The timer gate (40_step_cycle.md R125, decisions D14 and D20, log 17), for any clock width: it fires exactly when at least a period has
passed since the last firing; then each timer that is not 0 falls by 1 and `last_tick` becomes `now`; else nothing changes; nothing
besides the timers and `last_tick` changes. So does the gate for any period, and so does the machine's own TIMER phase at its
`TICK_PERIOD`, which is at least 1 and the one its parameters name, if they name one (00_scope.md R8). -/
def Obligations.TimerGateTicksBothTimersTogether : Prop :=
  ∀ s : State, s.ClockOk →
    (∀ period, GateTicks period s (s.timerGateAt period)) ∧
    GateTicks s.params.tickPeriod s s.timerGate ∧
    1 ≤ s.params.tickPeriod ∧
    ∀ n, s.params.tickPeriodPred = some n → s.params.tickPeriod = n + 1

/-- Over one step a timer that the instruction does not write falls by at most 1 and never rises, and it falls by 1, unless it is 0,
exactly when the machine's tick period has passed since the last firing, the moment of which `last_tick` then takes
(40_step_cycle.md R125, R128; 10_state.md R26, R27, R31; D14, log 17). -/
def Obligations.TimersFallByAtMostOnePerStep : Prop :=
  ∀ s t : State, step s = .next t →
    ((∀ x, decodeWord s.fetchWord ≠ .ldDtVx x) → t.dt.toNat ≤ s.dt.toNat ∧ s.dt.toNat ≤ t.dt.toNat + 1) ∧
    ((∀ x, decodeWord s.fetchWord ≠ .ldStVx x) → t.st.toNat ≤ s.st.toNat ∧ s.st.toNat ≤ t.st.toNat + 1) ∧
    (s.ClockOk →
      (t.lastTick = if s.PeriodOver s.params.tickPeriod then s.now else s.lastTick) ∧
      ((∀ x, decodeWord s.fetchWord ≠ .ldDtVx x) →
        t.dt.toNat = if s.PeriodOver s.params.tickPeriod then s.dt.toNat - 1 else s.dt.toNat) ∧
      ((∀ x, decodeWord s.fetchWord ≠ .ldStVx x) →
        t.st.toNat = if s.PeriodOver s.params.tickPeriod then s.st.toNat - 1 else s.st.toNat))

/-- Over a run of any length a timer that no instruction of the run writes falls by at most 1 in each whole tick period of the machine between the first
and the last firing of the gate: its fall times the period is at most the way `last_tick` went, and `last_tick` is never later than the
clock (40_step_cycle.md R128; the gate's condition is D14, log 17). -/
def Obligations.TimersFallAtMostOncePerPeriod : Prop :=
  ∀ (n : Nat) (s t : State), s.Good → stepTimes n s = .next t → t.lastTick ≤ t.now ∧
    ((∀ k u x, k < n → stepTimes k s = .next u → decodeWord u.fetchWord ≠ .ldDtVx x) → t.dt.toNat ≤ s.dt.toNat ∧
      s.dt.toNat * s.params.tickPeriod + s.lastTick ≤ t.dt.toNat * s.params.tickPeriod + t.lastTick) ∧
    ((∀ k u x, k < n → stepTimes k s = .next u → decodeWord u.fetchWord ≠ .ldStVx x) → t.st.toNat ≤ s.st.toNat ∧
      s.st.toNat * s.params.tickPeriod + s.lastTick ≤ t.st.toNat * s.params.tickPeriod + t.lastTick)

/-! ### Reports -/

/-- What a step reports, and by which code: StackOverflow exactly for a CALL on a full stack, StackUnderflow exactly for a RET on an
empty one, UnknownOpcode exactly for an unassigned encoding, None else (60_exceptions.md R210 to R213, R219; the codes are decision
D15, log 20; the unassigned classes D10, log 14). -/
def Obligations.ReportsComeOnlyFromTheirInstructions : Prop :=
  ∀ s t : State, step s = .next t →
    (t.err.code = 1#2 ↔ (∃ nnn, decodeWord s.fetchWord = .call nnn) ∧ s.sp.val = 16) ∧
    (t.err.code = 2#2 ↔ decodeWord s.fetchWord = .ret ∧ s.sp.val = 0) ∧
    (t.err.code = 3#2 ↔ (decodeWord s.fetchWord).isUnassigned = true)

/-- A step that reports has done nothing but move `pc` past the instruction and set the report; the timer gate and the host's turn
follow as ever, the next step is accepted, and it does not see the report (60_exceptions.md R215). -/
def Obligations.ReportingStepDropsItsInstruction : Prop :=
  ∀ s t : State, step s = .next t → t.err ≠ .none →
    t = ({ s.fetched with err := t.err } : State).timerGate.hostTurn ∧
    (∃ u, step t = .next u) ∧ step t = step { t with err := .none }

/-! ### Frames over all instructions -/

/-- A general register that an instruction does not write keeps its value: the writers of VF as a side effect are 8XY4, 8XY5, 8XY6,
8XY7, 8XYE and DXYN and no others (10_state.md R20, R22). -/
def Obligations.RegistersOutsideTheDestinationsAreKept : Prop :=
  ∀ (i : Instr) (s t : State) (r : RegIdx), exec i s = .next t → writesReg i r = false → t.reg r = s.reg r

/-- A byte that an instruction does not store to keeps its value: only FX33 and FX55 store, 3 and X + 1 bytes from `I` upward
(20_memory.md R64, R67; addresses are reduced by D3, log 10). -/
def Obligations.MemoryOutsideTheStoresIsKept : Prop :=
  ∀ (i : Instr) (s t : State) (a : Nat), exec i s = .next t → ¬ StoredTo i s a → t.peek a = s.peek a

/-- Every other piece of state changes only by its writers (the "written by" column of 10_state.md R20): `I` by ANNN, FX1E, FX29; the
stack and `sp` by 2NNN and 00EE; the timers by FX15 and FX18; the pixels by 00E0 and DXYN; `pc` by the control transfers, the skips and
FX0A; the key mask, the clock, `last_tick`, the parameters, the model's supply of inputs and its mark of an open load by no instruction. -/
def Obligations.OtherStateChangesOnlyByItsWriters : Prop :=
  ∀ (i : Instr) (s t : State), exec i s = .next t →
    ((∀ nnn x, i ≠ .ldI nnn ∧ i ≠ .addI x ∧ i ≠ .ldF x) → t.I = s.I) ∧
    ((∀ nnn, i ≠ .call nnn) → t.stack = s.stack) ∧
    ((∀ nnn, i ≠ .call nnn ∧ i ≠ .ret) → t.sp = s.sp) ∧
    ((∀ x, i ≠ .ldDtVx x) → t.dt = s.dt) ∧
    ((∀ x, i ≠ .ldStVx x) → t.st = s.st) ∧
    ((∀ x y n, i ≠ .cls ∧ i ≠ .drw x y n) → t.fb = s.fb) ∧
    ((∀ nnn x y nn, i ≠ .ret ∧ i ≠ .sys nnn ∧ i ≠ .jp nnn ∧ i ≠ .call nnn ∧ i ≠ .jpV0 nnn ∧
        i ≠ .seImm x nn ∧ i ≠ .sneImm x nn ∧ i ≠ .seReg x y ∧ i ≠ .sneReg x y ∧ i ≠ .skp x ∧ i ≠ .sknp x ∧
        i ≠ .ldVxK x) → t.pc = s.pc) ∧
    t.keys = s.keys ∧ t.lastTick = s.lastTick ∧ t.rnd = s.rnd ∧ t.now = s.now ∧
    t.inputs = s.inputs ∧ t.stepNo = s.stepNo ∧ t.params = s.params ∧ t.loadOpen = s.loadOpen

/-- The random byte matters only to CXNN: any other instruction does the same whatever it is (40_step_cycle.md R129; 10_state.md
R30). -/
def Obligations.RandomByteMattersOnlyToRnd : Prop :=
  ∀ (i : Instr) (s t : State) (r : Byte), (∀ x nn, i ≠ .rnd x nn) → exec i s = .next t →
    exec i { s with rnd := r } = .next { t with rnd := r }

/-- The key mask matters only to EX9E, EXA1 and FX0A (40_step_cycle.md R129; 10_state.md R29). -/
def Obligations.KeysMatterOnlyToTheKeyInstructions : Prop :=
  ∀ (i : Instr) (s t : State) (k : Word16), (∀ x, i ≠ .skp x ∧ i ≠ .sknp x ∧ i ≠ .ldVxK x) →
    exec i s = .next t → exec i { s with keys := k } = .next { t with keys := k }

/-- The clock matters only to the timer gate: every instruction does the same whatever the clock reads (40_step_cycle.md R129; 10_state.md
R31). -/
def Obligations.ClockMattersOnlyToTheTimerGate : Prop :=
  ∀ (i : Instr) (s t : State) (c : Nat), exec i s = .next t → exec i { s with now := c } = .next { t with now := c }

/-! ### Control transfer -/

/-- 00EE (41_flow.md R140): with entries held the newest goes to `pc`, all 16 bits, and is no longer held; on an empty stack
StackUnderflow is reported and nothing changes. VF and everything else are as before. -/
def Obligations.RetPopsTheNewestEntry : Prop :=
  (∀ (s : State) (n : Fin 16), s.sp = n.succ →
    exec .ret s = .next { s with sp := n.castSucc, pc := s.stack[n] }) ∧
  (∀ s : State, s.sp = 0 → exec .ret s = .next { s with err := .stackUnderflow })

/-- 0NNN (41_flow.md R141): `pc` becomes NNN; nothing else changes, the stack among it. -/
def Obligations.SysJumpsToNnn : Prop :=
  ∀ (nnn : Addr12) (s : State), ∃ t, exec (.sys nnn) s = .next t ∧ t.pc.toNat = nnn.toNat ∧ OnlyPcDiffers s t

/-- 1NNN (41_flow.md R142): `pc` becomes NNN, an odd one as it is; nothing else changes. -/
def Obligations.JpJumpsToNnn : Prop :=
  ∀ (nnn : Addr12) (s : State), ∃ t, exec (.jp nnn) s = .next t ∧ t.pc.toNat = nnn.toNat ∧ OnlyPcDiffers s t

/-- 2NNN (41_flow.md R143): with fewer than 16 entries held, `pc` (the address after the call) is pushed and NNN goes to `pc`; on a full
stack StackOverflow is reported and nothing changes. -/
def Obligations.CallPushesThePc : Prop :=
  (∀ (nnn : Addr12) (s : State) (n : Fin 16), s.sp = n.castSucc →
    exec (.call nnn) s = .next { s with stack := s.stack.set n s.pc, sp := n.succ, pc := nnn.setWidth 16 }) ∧
  (∀ (nnn : Addr12) (s : State), s.sp = Fin.last 16 →
    exec (.call nnn) s = .next { s with err := .stackOverflow })

/-- BNNN (41_flow.md R144): `pc` becomes NNN plus V0, unreduced; nothing else changes. -/
def Obligations.JpV0AddsV0 : Prop :=
  ∀ (nnn : Addr12) (s : State), ∃ t, exec (.jpV0 nnn) s = .next t ∧
    t.pc.toNat = nnn.toNat + (s.reg 0).toNat ∧ OnlyPcDiffers s t

/-- A RET after a CALL that had room comes back to the instruction after the call, with the same entries held (41_flow.md R140,
R143; 10_state.md R25). -/
def Obligations.RetAfterCallComesBack : Prop :=
  ∀ (nnn : Addr12) (s : State), s.sp.val < 16 → ∃ t u, exec (.call nnn) s = .next t ∧ exec .ret t = .next u ∧
    u.pc = s.pc ∧ u.sp = s.sp ∧ (∀ j : Fin 16, j.val < s.sp.val → u.stack[j] = s.stack[j]) ∧
    u = { s with stack := u.stack }

/-- "2NNN sixteen times consecutively succeeds; a seventeenth fails with StackOverflow" (41_flow.md R143): from an empty stack, `k`
calls leave `k` entries held and no report, and the seventeenth leaves the state of the sixteenth but for the report. -/
def Obligations.SeventeenthCallOverflows : Prop :=
  ∀ (nnn : Addr12) (s : State), s.sp = 0 →
    (∀ k, k ≤ 16 → ∃ t, execTimes (.call nnn) k s = .next t ∧ t.sp.val = k ∧ t.err = s.err) ∧
    (∃ t, execTimes (.call nnn) 16 s = .next t ∧
      execTimes (.call nnn) 17 s = .next { t with err := .stackOverflow })

/-! ### Skips -/

/-- 3XNN, 4XNN, 5XY0, 9XY0 (42_skip.md R150 to R153): `pc` moves on by 2, modulo 2^16 (D4, log 11), exactly when the comparison holds;
nothing else changes. -/
def Obligations.RegisterSkips : Prop :=
  (∀ (x : RegIdx) (nn : Byte) (s : State), ∃ t, exec (.seImm x nn) s = .next t ∧ OnlyPcDiffers s t ∧
    t.pc.toNat = if s.reg x = nn then (s.pc.toNat + 2) % 65536 else s.pc.toNat) ∧
  (∀ (x : RegIdx) (nn : Byte) (s : State), ∃ t, exec (.sneImm x nn) s = .next t ∧ OnlyPcDiffers s t ∧
    t.pc.toNat = if s.reg x ≠ nn then (s.pc.toNat + 2) % 65536 else s.pc.toNat) ∧
  (∀ (x y : RegIdx) (s : State), ∃ t, exec (.seReg x y) s = .next t ∧ OnlyPcDiffers s t ∧
    t.pc.toNat = if s.reg x = s.reg y then (s.pc.toNat + 2) % 65536 else s.pc.toNat) ∧
  (∀ (x y : RegIdx) (s : State), ∃ t, exec (.sneReg x y) s = .next t ∧ OnlyPcDiffers s t ∧
    t.pc.toNat = if s.reg x ≠ s.reg y then (s.pc.toNat + 2) % 65536 else s.pc.toNat)

/-! ### Register loads, arithmetic, logic, shifts, random -/

/-- 6XNN (43_alu.md R160): VX becomes NN; every other register, VF too unless it is VX, and everything else are as before. -/
def Obligations.LoadImmediate : Prop :=
  ∀ (x : RegIdx) (nn : Byte) (s : State), ∃ t, exec (.ldImm x nn) s = .next t ∧
    t.reg x = nn ∧ RegsKeptBut (· = x) s t ∧ OnlyRegsDiffer s t

/-- 7XNN (43_alu.md R161): VX becomes (VX + NN) mod 256; VF is not written unless it is VX; nothing else changes. -/
def Obligations.AddImmediate : Prop :=
  ∀ (x : RegIdx) (nn : Byte) (s : State), ∃ t, exec (.addImm x nn) s = .next t ∧
    (t.reg x).toNat = ((s.reg x).toNat + nn.toNat) % 256 ∧ RegsKeptBut (· = x) s t ∧ OnlyRegsDiffer s t

/-- 8XY0 (43_alu.md R162): VX becomes VY; nothing else changes. -/
def Obligations.LoadRegister : Prop :=
  ∀ (x y : RegIdx) (s : State), ∃ t, exec (.ldReg x y) s = .next t ∧
    t.reg x = s.reg y ∧ RegsKeptBut (· = x) s t ∧ OnlyRegsDiffer s t

/-- 8XY1, 8XY2, 8XY3 (43_alu.md R163, R164, R165): each bit of VX becomes the OR, AND or XOR of the bits of VX and VY; VF is not written
unless it is VX; nothing else changes. -/
def Obligations.LogicOfRegisters : Prop :=
  ∀ (x y : RegIdx) (s : State),
    (∃ t, exec (.orReg x y) s = .next t ∧ RegsKeptBut (· = x) s t ∧ OnlyRegsDiffer s t ∧
      ∀ k, (t.reg x).getLsbD k = ((s.reg x).getLsbD k || (s.reg y).getLsbD k)) ∧
    (∃ t, exec (.andReg x y) s = .next t ∧ RegsKeptBut (· = x) s t ∧ OnlyRegsDiffer s t ∧
      ∀ k, (t.reg x).getLsbD k = ((s.reg x).getLsbD k && (s.reg y).getLsbD k)) ∧
    (∃ t, exec (.xorReg x y) s = .next t ∧ RegsKeptBut (· = x) s t ∧ OnlyRegsDiffer s t ∧
      ∀ k, (t.reg x).getLsbD k = ((s.reg x).getLsbD k ^^ (s.reg y).getLsbD k))

/-- 8XY4 (43_alu.md R166): VX becomes the sum modulo 256, VF the carry out of it; that the carry stands when X = F is the spec's
decision D9 (43_alu.md R173, log 13). Other registers and everything else are as before. -/
def Obligations.AddRegistersWithCarry : Prop :=
  ∀ (x y : RegIdx) (s : State), ∃ t, exec (.addReg x y) s = .next t ∧
    (x ≠ 15 → (t.reg x).toNat = ((s.reg x).toNat + (s.reg y).toNat) % 256) ∧
    t.reg 15 = (if (s.reg x).toNat + (s.reg y).toNat > 255 then 1#8 else 0#8) ∧
    RegsKeptBut (fun r => r = x ∨ r = 15) s t ∧ OnlyRegsDiffer s t

/-- 8XY5 and 8XY7 (43_alu.md R167, R169, R172): VX becomes the difference modulo 256, VF 1 exactly when the minuend was strictly greater;
the flag stands when X = F (D9, log 13). Other registers and everything else are as before. -/
def Obligations.SubtractRegisters : Prop :=
  ∀ (x y : RegIdx) (s : State),
    (∃ t, exec (.subReg x y) s = .next t ∧
      (x ≠ 15 → (t.reg x).toNat = ((s.reg x).toNat + 256 - (s.reg y).toNat) % 256) ∧
      t.reg 15 = (if (s.reg x).toNat > (s.reg y).toNat then 1#8 else 0#8) ∧
      RegsKeptBut (fun r => r = x ∨ r = 15) s t ∧ OnlyRegsDiffer s t) ∧
    (∃ t, exec (.subnReg x y) s = .next t ∧
      (x ≠ 15 → (t.reg x).toNat = ((s.reg y).toNat + 256 - (s.reg x).toNat) % 256) ∧
      t.reg 15 = (if (s.reg y).toNat > (s.reg x).toNat then 1#8 else 0#8) ∧
      RegsKeptBut (fun r => r = x ∨ r = 15) s t ∧ OnlyRegsDiffer s t)

/-- 8XY6 and 8XYE (43_alu.md R168, R170): VX is halved, or doubled modulo 256, whatever Y is, and VF becomes the bit shifted out; the flag
stands when X = F (D9, log 13). Other registers and everything else are as before. -/
def Obligations.ShiftRegister : Prop :=
  ∀ (x y : RegIdx) (s : State),
    (∃ t, exec (.shr x y) s = .next t ∧
      (x ≠ 15 → (t.reg x).toNat = (s.reg x).toNat / 2) ∧
      (t.reg 15).toNat = (s.reg x).toNat % 2 ∧
      RegsKeptBut (fun r => r = x ∨ r = 15) s t ∧ OnlyRegsDiffer s t) ∧
    (∃ t, exec (.shl x y) s = .next t ∧
      (x ≠ 15 → (t.reg x).toNat = (s.reg x).toNat * 2 % 256) ∧
      (t.reg 15).toNat = (s.reg x).toNat / 128 ∧
      RegsKeptBut (fun r => r = x ∨ r = 15) s t ∧ OnlyRegsDiffer s t)

/-- CXNN (43_alu.md R171; the random byte as an input is D13, log 1): for every random byte of the step, each bit of VX becomes that of
the random byte where NN has it, else 0; nothing else changes. -/
def Obligations.RandomByteUnderMask : Prop :=
  ∀ (x : RegIdx) (nn : Byte) (s : State), ∃ t, exec (.rnd x nn) s = .next t ∧
    (∀ k, (t.reg x).getLsbD k = (s.rnd.getLsbD k && nn.getLsbD k)) ∧
    RegsKeptBut (· = x) s t ∧ OnlyRegsDiffer s t

/-! ### Index register and memory -/

/-- ANNN (44_index_memory.md R180): `I` becomes NNN; nothing else changes. -/
def Obligations.LoadIndex : Prop :=
  ∀ (nnn : Addr12) (s : State), ∃ t, exec (.ldI nnn) s = .next t ∧ t.I.toNat = nnn.toNat ∧ OnlyIDiffers s t

/-- FX1E (44_index_memory.md R181): `I` becomes I + VX modulo 2^16 (the wrap is D4, log 11), not reduced to 12 bits; VF and everything else
are as before. -/
def Obligations.AddToIndex : Prop :=
  ∀ (x : RegIdx) (s : State), ∃ t, exec (.addI x) s = .next t ∧
    t.I.toNat = (s.I.toNat + (s.reg x).toNat) % 65536 ∧ OnlyIDiffers s t

/-- FX29 (44_index_memory.md R182): `I` becomes VX x 5, VX not masked; nothing else changes. -/
def Obligations.LoadGlyphAddress : Prop :=
  ∀ (x : RegIdx) (s : State), ∃ t, exec (.ldF x) s = .next t ∧ t.I.toNat = (s.reg x).toNat * 5 ∧ OnlyIDiffers s t

/-- FX33 (44_index_memory.md R183): the bytes at I, I + 1, I + 2 become the decimal digits of VX, every other byte is as before, `oob` rises
when one of the three addresses is above 0xFFF (D3, log 10), and nothing else changes, `I` among it. -/
def Obligations.StoreDecimalDigits : Prop :=
  ∀ (x : RegIdx) (s : State), ∃ t, exec (.ldB x) s = .next t ∧
    (t.peek (s.dataAddr 0)).toNat = (s.reg x).toNat / 100 ∧
    (t.peek (s.dataAddr 1)).toNat = (s.reg x).toNat / 10 % 10 ∧
    (t.peek (s.dataAddr 2)).toNat = (s.reg x).toNat % 10 ∧
    (∀ a, ¬ StoredTo (.ldB x) s a → t.peek a = s.peek a) ∧
    t.oob = (s.oob || decide (s.dataAddr 2 > 0xFFF)) ∧
    t = { s with mem := t.mem, oob := t.oob }

/-- FX55 (44_index_memory.md R184): for every k from 0 to X the byte at I + k becomes Vk, every other byte is as before, `oob` rises when the
last address is above 0xFFF (D3, log 10), and nothing else changes, `I` among it. -/
def Obligations.StoreRegistersToMemory : Prop :=
  ∀ (x : RegIdx) (s : State), ∃ t, exec (.storeRegs x) s = .next t ∧
    (∀ k : RegIdx, k ≤ x → t.peek (s.dataAddr k.val) = s.reg k) ∧
    (∀ a, ¬ StoredTo (.storeRegs x) s a → t.peek a = s.peek a) ∧
    t.oob = (s.oob || decide (s.dataAddr x.val > 0xFFF)) ∧
    t = { s with mem := t.mem, oob := t.oob }

/-- FX65 (44_index_memory.md R185): for every k from 0 to X, Vk becomes the byte at I + k; the registers above X and every byte are as
before, `oob` rises when the last address is above 0xFFF (D3, log 10), and nothing else changes, `I` among it. -/
def Obligations.LoadRegistersFromMemory : Prop :=
  ∀ (x : RegIdx) (s : State), ∃ t, exec (.loadRegs x) s = .next t ∧
    (∀ k : RegIdx, k ≤ x → t.reg k = s.peek (s.dataAddr k.val)) ∧
    RegsKeptBut (· ≤ x) s t ∧ SameMemory s t ∧
    t.oob = (s.oob || decide (s.dataAddr x.val > 0xFFF)) ∧
    t = { s with V := t.V, oob := t.oob }

/-- FX65 brings back what FX55 stored, whatever the registers hold in between and wherever `I` points, also across the top of memory
(44_index_memory.md R184, R185; D3, log 10). -/
def Obligations.LoadBringsBackWhatStoreStored : Prop :=
  ∀ (x : RegIdx) (s t : State) (v : Vector Byte 16), exec (.storeRegs x) s = .next t →
    ∃ u, exec (.loadRegs x) { t with V := v } = .next u ∧ ∀ k : RegIdx, k ≤ x → u.reg k = s.reg k

/-! ### Display -/

/-- 00E0 (45_display.md R190): all 2048 pixels are unlit; VF and everything else are as before. -/
def Obligations.ClearScreen : Prop :=
  ∀ s : State, ∃ t, exec .cls s = .next t ∧ (∀ x y, t.fb.pixel x y = false) ∧
    SameMemory s t ∧ t = { s with fb := t.fb }

/-- DXYN (45_display.md R191, R192; the bit order is D8, log 16): every pixel is XORed with the bit the sprite brings to it, wrapped in both
directions and read from memory at I upward; VF becomes 1 exactly when some pixel went from lit to unlit; the other registers, every byte
and everything else are as before, and `oob` rises when the sprite's last byte lies above 0xFFF (D3, log 10). -/
def Obligations.DrawXorsTheSprite : Prop :=
  ∀ (x y : RegIdx) (n : Nibble) (s : State), ∃ t, exec (.drw x y n) s = .next t ∧
    (∀ px py, t.fb.pixel px py = (s.fb.pixel px py ^^ spriteCover s x y n px py)) ∧
    (t.reg 15 = 1#8 ∨ t.reg 15 = 0#8) ∧
    (t.reg 15 = 1#8 ↔ ∃ px py, s.fb.pixel px py = true ∧ t.fb.pixel px py = false) ∧
    RegsKeptBut (· = 15) s t ∧ SameMemory s t ∧
    t.oob = (s.oob || decide (0 < n.toNat ∧ s.I.toNat + n.toNat - 1 > 0xFFF)) ∧
    t = { s with fb := t.fb, V := t.V, oob := t.oob }

/-- "Drawing … twice at the same position with no other mutation restores the pre-draw framebuffer exactly (XOR self-inverse) and the
second draw's collision flag is 1 if the first draw set any pixel" (45_display.md R191), for every sprite; the position is the same unless
VF names it and the first draw changed VF. -/
def Obligations.DrawingTwiceRestoresTheScreen : Prop :=
  ∀ (x y : RegIdx) (n : Nibble) (s t : State), exec (.drw x y n) s = .next t →
    t.reg x = s.reg x → t.reg y = s.reg y →
    ∃ u, exec (.drw x y n) t = .next u ∧ u.fb = s.fb ∧
      (u.reg 15 = 1#8 ↔ ∃ px py, s.fb.pixel px py = false ∧ t.fb.pixel px py = true)

/-! ### Keys and timers -/

/-- EX9E and EXA1 (46_keys_timers.md R200, R201): the low 4 bits of VX select the key (D12, log 15); EX9E moves `pc` on by 2 exactly when it
is down, EXA1 exactly when it is up (modulo 2^16: D4, log 11); nothing else changes. -/
def Obligations.KeySkips : Prop :=
  ∀ (x : RegIdx) (s : State),
    (∃ t, exec (.skp x) s = .next t ∧ OnlyPcDiffers s t ∧
      t.pc.toNat = if s.keys.getLsbD ((s.reg x).toNat % 16) = true then (s.pc.toNat + 2) % 65536 else s.pc.toNat) ∧
    (∃ t, exec (.sknp x) s = .next t ∧ OnlyPcDiffers s t ∧
      t.pc.toNat = if s.keys.getLsbD ((s.reg x).toNat % 16) = false then (s.pc.toNat + 2) % 65536 else s.pc.toNat)

/-- FX0A (46_keys_timers.md R203), for every `KEY_PICK` (00_scope.md R8): with a key down VX becomes the index of a key that is down, the one
`KEY_PICK` gives for the mask, which by default is the lowest (D11, log 9), and `pc` stays past the instruction; with none down only
`pc` changes, back by 2 (modulo 2^16: D4, log 11). -/
def Obligations.KeyWait : Prop :=
  ∀ (x : RegIdx) (s : State),
    (s.keys ≠ 0#16 → ∃ t, exec (.ldVxK x) s = .next t ∧ (t.reg x).toNat < 16 ∧
      s.keys.getLsbD (t.reg x).toNat = true ∧ (t.reg x).toNat = keyPick s.params.picks s.keys ∧
      (s.params.picks = [] → ∀ k, k < (t.reg x).toNat → s.keys.getLsbD k = false) ∧
      RegsKeptBut (· = x) s t ∧ OnlyRegsDiffer s t) ∧
    (s.keys = 0#16 → ∃ t, exec (.ldVxK x) s = .next t ∧
      (t.pc.toNat + 2) % 65536 = s.pc.toNat ∧ OnlyPcDiffers s t)

/-- A step of FX0A with no key down leaves `pc` where it was, and registers, memory, `I`, the stack and the screen too (46_keys_timers.md
R203 (a); 40_step_cycle.md R130). -/
def Obligations.KeyWaitStepMakesNoProgress : Prop :=
  ∀ (x : RegIdx) (s : State), decodeWord s.fetchWord = .ldVxK x → s.keys = 0#16 →
    ∃ t, step s = .next t ∧ t.pc = s.pc ∧ t.V = s.V ∧ t.mem = s.mem ∧ t.I = s.I ∧ t.stack = s.stack ∧
      t.sp = s.sp ∧ t.fb = s.fb ∧ t.err = .none

/-- FX07 (46_keys_timers.md R202): VX becomes the delay timer, as it is before this step's gate; nothing else changes. -/
def Obligations.ReadDelayTimer : Prop :=
  ∀ (x : RegIdx) (s : State), ∃ t, exec (.ldVxDt x) s = .next t ∧
    t.reg x = s.dt ∧ RegsKeptBut (· = x) s t ∧ OnlyRegsDiffer s t

/-- FX15 and FX18 (46_keys_timers.md R204, R205; 40_step_cycle.md R127): the timer becomes VX and nothing else changes, `last_tick` among
it; the gate of the same step, which fires when the machine's tick period has passed, then already takes 1 from it unless it is 0, and
so does the gate for any period (D14, log 17). -/
def Obligations.SetTimers : Prop :=
  ∀ (x : RegIdx) (s : State),
    (∃ t, exec (.ldDtVx x) s = .next t ∧ t.dt = s.reg x ∧ SameMemory s t ∧ t = { s with dt := t.dt } ∧
      (s.ClockOk →
        (∀ period, (t.timerGateAt period).dt.toNat =
          if s.PeriodOver period then (s.reg x).toNat - 1 else (s.reg x).toNat) ∧
        t.timerGate.dt.toNat =
          if s.PeriodOver s.params.tickPeriod then (s.reg x).toNat - 1 else (s.reg x).toNat)) ∧
    (∃ t, exec (.ldStVx x) s = .next t ∧ t.st = s.reg x ∧ SameMemory s t ∧ t = { s with st := t.st } ∧
      (s.ClockOk →
        (∀ period, (t.timerGateAt period).st.toNat =
          if s.PeriodOver period then (s.reg x).toNat - 1 else (s.reg x).toNat) ∧
        t.timerGate.st.toNat =
          if s.PeriodOver s.params.tickPeriod then (s.reg x).toNat - 1 else (s.reg x).toNat))

/-! ### Unassigned encodings -/

/-- Every unassigned encoding (30_encoding.md R97; 60_exceptions.md R213; D10, log 14) reports UnknownOpcode and changes nothing else. -/
def Obligations.UnassignedEncodingsReportOnly : Prop :=
  ∀ (s : State) (x y : RegIdx) (n : Nibble) (nn : Byte), ∃ t, OnlyErrDiffers s t ∧ t.err = .unknownOpcode ∧
    exec (.unassigned5 x y n) s = .next t ∧ exec (.unassigned8 x y n) s = .next t ∧
    exec (.unassigned9 x y n) s = .next t ∧ exec (.unassignedE x nn) s = .next t ∧
    exec (.unassignedF x nn) s = .next t

/-! ### The host, memory, the end of a run -/

/-- The program load, while it is open (70_reset_and_hazards.md R243; D17, log 21): an image of at most 3584 bytes stands at 0x200 upward
afterwards, every other byte is as before, the load is closed, and nothing else changes; a longer one, or an unreadable source, is refused
whole. -/
def Obligations.ProgramLoadCopiesTheImage : Prop :=
  ∀ (s : State) (h : s.loadOpen = true),
    (∀ image : List Byte,
      (image.length ≤ 3584 → ∃ t, loadProgram (some image) s h = .ok t ∧
        (∀ k, k < image.length → some (t.peek (0x200 + k)) = image[k]?) ∧
        (∀ a, a < 4096 → (a < 0x200 ∨ 0x200 + image.length ≤ a) → t.peek a = s.peek a) ∧
        t = { s with mem := t.mem, loadOpen := false }) ∧
      (3584 < image.length → loadProgram (some image) s h = .error .oversized)) ∧
    loadProgram none s h = .error .unreadable

/-- The host's moves (70_reset_and_hazards.md R251; 20_memory.md R76), and none besides.
What it may do, at any time: `rst`; rewrite `keys` to any mask; supply any random byte and any clock reading from the last one up to the
end of the width; and, while the load is open, load any image of at most 3584 bytes. Each does just that.
What it may not: besides `rst`, a move changes only the key mask, the two inputs, and memory by a load; the load closes itself and leaves
every byte below 0x200 alone; `rst` opens it and a step closes it, so no load comes after the first step (D17, log 21); the parameters
never change.
With a step the host supplies the next inputs (log 1): the random byte, the clock moved on and a key write if there is one, from the first
listed input, or from the free values where none is listed; the clock stops at the end of its width (log 3). -/
def Obligations.HostMovesKeepToTheProtocol : Prop :=
  ∀ s : State,
    (HostMove s (assertReset s) ∧ (assertReset s).loadOpen = true ∧ (assertReset s).params = s.params) ∧
    (∀ mask, HostMove s { s with keys := mask }) ∧
    (∀ r n, s.now ≤ n → n < 2 ^ s.params.timeBits → HostMove s { s with rnd := r, now := n }) ∧
    (∀ image : List Byte, s.loadOpen = true → image.length ≤ 3584 →
      ∃ h t, loadProgram (some image) s h = .ok t ∧ HostMove s t) ∧
    (∀ t, HostMove s t → t = assertReset s ∨
      (t = { s with mem := t.mem, loadOpen := t.loadOpen, keys := t.keys, rnd := t.rnd, now := t.now } ∧
        ((t.mem = s.mem ∧ t.loadOpen = s.loadOpen) ∨
          (s.loadOpen = true ∧ t.loadOpen = false ∧ t.keys = s.keys ∧ t.rnd = s.rnd ∧ t.now = s.now ∧
            ∀ a, a < 0x200 → t.peek a = s.peek a)))) ∧
    (∀ t, step s = .next t →
      t.loadOpen = false ∧ t.params = s.params ∧
      t.rnd = s.nextInput.rnd ∧ t.keys = s.nextInput.keys.getD s.keys ∧
      (s.now + s.nextInput.elapsed < 2 ^ s.params.timeBits → t.now = s.now + s.nextInput.elapsed) ∧
      (2 ^ s.params.timeBits ≤ s.now + s.nextInput.elapsed → t.now = 2 ^ s.params.timeBits - 1) ∧
      t.inputs = s.inputs.tail ∧ t.stepNo = s.stepNo + 1) ∧
    (∀ i l, s.inputs = i :: l → s.nextInput = i) ∧
    (s.inputs = [] → s.nextInput = freeInput (s.stepNo + 1)) ∧
    (∀ l, s.withInputs l = { s with inputs := l })

/-- Every move the spec gives the host (70_reset_and_hazards.md R251) keeps the invariant and never sets the clock back (log 3); so do a
byte through the open load port, and fixing later inputs (log 1). -/
def Obligations.HostMovesKeepGoodStates : Prop :=
  ∀ s : State, s.Good →
    (∀ t, HostMove s t → t.Good ∧ s.now ≤ t.now) ∧
    (∀ a b h, (loadByte a b s h).Good) ∧
    (∀ l, (s.withInputs l).Good)

/-- From a state whose instruction is a jump to itself, every further step changes nothing but the timers, `last_tick`, the outputs of the
step, what the host drives and, as every step, that no load is open after it (70_reset_and_hazards.md R250; the definition of a final
state is D19), and the next state spins too. -/
def Obligations.SelfJumpSpinsForever : Prop :=
  ∀ s : State, s.SpinsForever → ∃ t, step s = .next t ∧ t.SpinsForever ∧
    t = { s with
      dt := t.dt, st := t.st, lastTick := t.lastTick, keys := t.keys, rnd := t.rnd, now := t.now,
      inputs := t.inputs, stepNo := t.stepNo, err := .none, oob := t.oob, loadOpen := false }

/-- A byte read after a store is the byte stored where the reduced addresses agree, and as before elsewhere (20_memory.md R65 to R67; the
reduction is D3, log 10); the store raises `oob` exactly for an address above 0xFFF and changes nothing else. -/
def Obligations.ReadAfterStore : Prop :=
  ∀ (s : State) (a b : Nat) (v : Byte),
    (s.poke a v).peek b = (if b % 4096 = a % 4096 then v else s.peek b) ∧
    s.poke a v = { s with mem := (s.poke a v).mem, oob := s.oob || decide (a > 0xFFF) }

/-- The canonical form makes equal memories equal data: two memories of one machine in it that read alike at every address are the same
list, whatever the `FONT`. -/
def Obligations.EqualReadsMakeEqualMemories : Prop :=
  ∀ (font : Font) (m m' : Memory), Memory.wf font m = true → Memory.wf font m' = true →
    (∀ a, a < 4096 → Memory.read font m a = Memory.read font m' a) → m = m'
end

