-- ==== Sys2Proof/Laws/Decode.lean ====
section
/-! SUPPORT. Words and their fields as numbers, and the fields of a word put together from fields (30_encoding.md R91), one
lemma per view and field. -/

namespace Sys2Proof

/-- `a ++ b` has `a` in the high bits (00_scope.md R12). -/
theorem toNat_append_add {n m : Nat} (a : BitVec n) (b : BitVec m) :
    (a ++ b).toNat = a.toNat * 2 ^ m + b.toNat := by
  rw [BitVec.toNat_append, ← Nat.shiftLeft_add_eq_or_of_lt b.isLt, Nat.shiftLeft_eq]

/-- A field as a number (00_scope.md R12). -/
theorem toNat_field (w : Word16) (k l : Nat) : (w.extractLsb' k l).toNat = w.toNat / 2 ^ k % 2 ^ l := by
  rw [BitVec.extractLsb'_toNat, Nat.shiftRight_eq_div_pow]

section
variable (t : Nibble) (x y : RegIdx) (n : Nibble) (nn : Byte) (nnn : Addr12)

theorem toNat_wordXYN : (wordXYN t x y n).toNat = t.toNat * 4096 + x.val * 256 + y.val * 16 + n.toNat := by
  have h : (wordXYN t x y n).toNat =
    (((t ++ BitVec.ofFin (w := 4) x) ++ BitVec.ofFin (w := 4) y) ++ n : BitVec (4 + 4 + 4 + 4)).toNat := rfl
  rw [h]
  simp only [toNat_append_add, BitVec.toNat_ofFin]
  omega

theorem toNat_wordXNN : (wordXNN t x nn).toNat = t.toNat * 4096 + x.val * 256 + nn.toNat := by
  have h : (wordXNN t x nn).toNat = ((t ++ BitVec.ofFin (w := 4) x) ++ nn : BitVec (4 + 4 + 8)).toNat := rfl
  rw [h]
  simp only [toNat_append_add, BitVec.toNat_ofFin]
  omega

theorem toNat_wordNNN : (wordNNN t nnn).toNat = t.toNat * 4096 + nnn.toNat := toNat_append_add t nnn

end

/-! ### Fields as numbers -/

theorem fieldTop_val (w : Word16) : (fieldTop w).val = w.toNat / 4096 % 16 := toNat_field w 12 4

theorem fieldX_val (w : Word16) : (fieldX w).val = w.toNat / 256 % 16 := toNat_field w 8 4

theorem fieldY_val (w : Word16) : (fieldY w).val = w.toNat / 16 % 16 := toNat_field w 4 4

theorem fieldN_toNat (w : Word16) : (fieldN w).toNat = w.toNat / 1 % 16 := toNat_field w 0 4

theorem fieldNN_toNat (w : Word16) : (fieldNN w).toNat = w.toNat / 1 % 256 := toNat_field w 0 8

theorem fieldNNN_toNat (w : Word16) : (fieldNNN w).toNat = w.toNat / 1 % 4096 := toNat_field w 0 12

/-! ### The fields of a word put together -/

section
variable (t : Nibble) (x y : RegIdx) (n : Nibble) (nn : Byte) (nnn : Addr12)

@[simp] theorem fieldTop_wordXYN : fieldTop (wordXYN t x y n) = t.toFin := by
  apply Fin.ext
  rw [fieldTop_val, toNat_wordXYN]
  show _ = t.toNat
  have := t.isLt; have := x.isLt; have := y.isLt; have := n.isLt
  omega

@[simp] theorem fieldX_wordXYN : fieldX (wordXYN t x y n) = x := by
  apply Fin.ext
  rw [fieldX_val, toNat_wordXYN]
  have := x.isLt; have := y.isLt; have := n.isLt
  omega

@[simp] theorem fieldY_wordXYN : fieldY (wordXYN t x y n) = y := by
  apply Fin.ext
  rw [fieldY_val, toNat_wordXYN]
  have := y.isLt; have := n.isLt
  omega

@[simp] theorem fieldN_wordXYN : fieldN (wordXYN t x y n) = n := by
  apply BitVec.eq_of_toNat_eq
  rw [fieldN_toNat, toNat_wordXYN]
  have := n.isLt
  omega

@[simp] theorem fieldTop_wordXNN : fieldTop (wordXNN t x nn) = t.toFin := by
  apply Fin.ext
  rw [fieldTop_val, toNat_wordXNN]
  show _ = t.toNat
  have := t.isLt; have := x.isLt; have := nn.isLt
  omega

@[simp] theorem fieldX_wordXNN : fieldX (wordXNN t x nn) = x := by
  apply Fin.ext
  rw [fieldX_val, toNat_wordXNN]
  have := x.isLt; have := nn.isLt
  omega

@[simp] theorem fieldNN_wordXNN : fieldNN (wordXNN t x nn) = nn := by
  apply BitVec.eq_of_toNat_eq
  rw [fieldNN_toNat, toNat_wordXNN]
  have := nn.isLt
  omega

@[simp] theorem fieldTop_wordNNN : fieldTop (wordNNN t nnn) = t.toFin := by
  apply Fin.ext
  rw [fieldTop_val, toNat_wordNNN]
  show _ = t.toNat
  have := t.isLt; have := nnn.isLt
  omega

@[simp] theorem fieldNNN_wordNNN : fieldNNN (wordNNN t nnn) = nnn := by
  apply BitVec.eq_of_toNat_eq
  rw [fieldNNN_toNat, toNat_wordNNN]
  have := nnn.isLt
  omega

end

/-- The two bytes of a word, put together again (20_memory.md R63). -/
@[simp] theorem highByte_append_lowByte (w : Word16) : highByte w ++ lowByte w = w := by
  apply BitVec.eq_of_toNat_eq
  have h : (highByte w ++ lowByte w).toNat = (highByte w ++ lowByte w : BitVec (8 + 8)).toNat := rfl
  rw [h, toNat_append_add, highByte, lowByte, toNat_field, toNat_field]
  have := w.isLt
  omega

/-- Words of one group are equal exactly when their NNN are. -/
theorem wordNNN_eq_iff (t : Nibble) (nnn nnn' : Addr12) : wordNNN t nnn = wordNNN t nnn' ↔ nnn = nnn' := by
  constructor
  · intro h
    simpa using congrArg fieldNNN h
  · rintro rfl; rfl

/-! ### A word from its own fields, and masks nibble by nibble -/

/-- A word is its four nibbles put together (30_encoding.md R91, nibble view). -/
theorem word_eq_wordXYN (w : Word16) :
    w = wordXYN (BitVec.ofFin (w := 4) (fieldTop w)) (fieldX w) (fieldY w) (fieldN w) := by
  apply BitVec.eq_of_toNat_eq
  rw [toNat_wordXYN, fieldX_val, fieldY_val, fieldN_toNat]
  show _ = (fieldTop w).val * 4096 + _ + _ + _
  rw [fieldTop_val]
  have := w.isLt
  omega

/-- A word in the byte view (30_encoding.md R91). -/
theorem word_eq_wordXNN (w : Word16) :
    w = wordXNN (BitVec.ofFin (w := 4) (fieldTop w)) (fieldX w) (fieldNN w) := by
  apply BitVec.eq_of_toNat_eq
  rw [toNat_wordXNN, fieldX_val, fieldNN_toNat]
  show _ = (fieldTop w).val * 4096 + _ + _
  rw [fieldTop_val]
  have := w.isLt
  omega

/-- A word in the address view (30_encoding.md R91). -/
theorem word_eq_wordNNN (w : Word16) :
    w = wordNNN (BitVec.ofFin (w := 4) (fieldTop w)) (fieldNNN w) := by
  apply BitVec.eq_of_toNat_eq
  rw [toNat_wordNNN, fieldNNN_toNat]
  show _ = (fieldTop w).val * 4096 + _
  rw [fieldTop_val]
  have := w.isLt
  omega

/-- Four nibbles as a word, the first in the high bits. -/
def ofNibbles (a b c d : Nibble) : Word16 := ((a ++ b) ++ c) ++ d

theorem toNat_ofNibbles (a b c d : Nibble) :
    (ofNibbles a b c d).toNat = a.toNat * 4096 + b.toNat * 256 + c.toNat * 16 + d.toNat := by
  have h : (ofNibbles a b c d).toNat = (((a ++ b) ++ c) ++ d : BitVec (4 + 4 + 4 + 4)).toNat := rfl
  rw [h]
  simp only [toNat_append_add]
  omega

theorem word_eq_ofNibbles (w : Word16) :
    w = ofNibbles (w.extractLsb' 12 4) (w.extractLsb' 8 4) (w.extractLsb' 4 4) (fieldN w) := by
  apply BitVec.eq_of_toNat_eq
  rw [toNat_ofNibbles, toNat_field, toNat_field, toNat_field, fieldN_toNat]
  have := w.isLt
  omega

theorem ofNibbles_and (a b c d a' b' c' d' : Nibble) :
    ofNibbles a b c d &&& ofNibbles a' b' c' d' =
      ofNibbles (a &&& a') (b &&& b') (c &&& c') (d &&& d') := by
  show ((((a ++ b) ++ c) ++ d : BitVec (4 + 4 + 4 + 4)) &&& (((a' ++ b') ++ c') ++ d')) = _
  rw [BitVec.and_append, BitVec.and_append, BitVec.and_append]
  rfl

theorem ofNibbles_inj (a b c d a' b' c' d' : Nibble) :
    ofNibbles a b c d = ofNibbles a' b' c' d' ↔ a = a' ∧ b = b' ∧ c = c' ∧ d = d' := by
  constructor
  · intro h
    have h := congrArg BitVec.toNat h
    rw [toNat_ofNibbles, toNat_ofNibbles] at h
    have := a.isLt; have := b.isLt; have := c.isLt; have := d.isLt
    have := a'.isLt; have := b'.isLt; have := c'.isLt; have := d'.isLt
    refine ⟨?_, ?_, ?_, ?_⟩ <;> apply BitVec.eq_of_toNat_eq <;> omega
  · rintro ⟨rfl, rfl, rfl, rfl⟩; rfl

/-- A row selects a word exactly when its four masked nibbles are the row's (30_encoding.md R93). -/
theorem OpcodeRow.selects_ofNibbles (ma mb mc md ka kb kc kd : Nibble) (f : Word16 → Instr) (w : Word16) :
    (OpcodeRow.mk (ofNibbles ma mb mc md) (ofNibbles ka kb kc kd) f).selects w =
      decide (w.extractLsb' 12 4 &&& ma = ka ∧ w.extractLsb' 8 4 &&& mb = kb ∧
        w.extractLsb' 4 4 &&& mc = kc ∧ fieldN w &&& md = kd) := by
  rw [Bool.eq_iff_iff, decide_eq_true_eq]
  unfold OpcodeRow.selects
  rw [beq_iff_eq]
  conv => lhs; lhs; rw [word_eq_ofNibbles w]
  rw [ofNibbles_and, ofNibbles_inj]

end Sys2Proof
end

