-- ==== Sys2Proof/Laws/Framebuffer.lean ====
section
/-! SUPPORT. The framebuffer: a pixel read after a pixel write, and what a sprite blit does to every pixel and to the collision
flag (45_display.md R190 to R192). -/

namespace Sys2Proof.Machine

/-- Two framebuffers with the same pixels are equal. -/
theorem Framebuffer.ext_pixel {f g : Framebuffer} (h : ∀ x y, f.pixel x y = g.pixel x y) : f = g := by
  apply Vector.ext
  intro y hy
  apply Vector.ext
  intro x hx
  exact h ⟨x, hx⟩ ⟨y, hy⟩

theorem Framebuffer.pixel_setPixel (f : Framebuffer) (x x' : Fin 64) (y y' : Fin 32) (b : Bool) :
    (f.setPixel x y b).pixel x' y' = if x' = x ∧ y' = y then b else f.pixel x' y' := by
  unfold Framebuffer.pixel Framebuffer.setPixel
  by_cases hy : y' = y
  · subst hy
    by_cases hx : x' = x
    · subst hx; simp
    · have : x.val ≠ x'.val := fun h => hx (Fin.ext h).symm
      simp [hx, Vector.getElem_set_ne, this]
  · have : y.val ≠ y'.val := fun h => hy (Fin.ext h).symm
    simp [hy, Vector.getElem_set_ne, this]

@[simp] theorem Framebuffer.pixel_clear (x : Fin 64) (y : Fin 32) : Framebuffer.clear.pixel x y = false := by
  simp [Framebuffer.pixel, Framebuffer.clear]

/-- The bit that the first `k` columns of a sprite byte at (`x0`, row `y`) bring to a pixel. -/
def colsBit (row : Byte) (x0 : Nat) (y : Fin 32) (k : Nat) (px : Fin 64) (py : Fin 32) : Bool :=
  decide (py = y) && decide ((px.val + 64 - x0 % 64) % 64 < k) && spriteBit row ((px.val + 64 - x0 % 64) % 64)

/-- The columns of a sprite byte XOR their bits into the pixels of one row; no two of at most 64 columns meet. -/
theorem pixel_blitCols (row : Byte) (x0 : Nat) (y : Fin 32) (k : Nat) (hk : k ≤ 64) (acc : Framebuffer × Bool)
    (px : Fin 64) (py : Fin 32) :
    (blitCols row x0 y k acc).1.pixel px py = (acc.1.pixel px py ^^ colsBit row x0 y k px py) := by
  induction k with
  | zero => simp [blitCols, colsBit]
  | succ k ih =>
    have ih := ih (by omega)
    rw [blitCols]
    simp only [blitPixel]
    rw [Framebuffer.pixel_setPixel]
    by_cases hp : px = wrapX (x0 + k) ∧ py = y
    · obtain ⟨hx, hy⟩ := hp
      have hv : px.val = (x0 + k) % 64 := congrArg Fin.val hx
      have hc : (px.val + 64 - x0 % 64) % 64 = k := by omega
      rw [if_pos ⟨hx, hy⟩, ← hx, ← hy, hy]
      have h0 : colsBit row x0 y k px y = false := by simp [colsBit, hc]
      have h1 : colsBit row x0 y (k + 1) px y = spriteBit row k := by simp [colsBit, hc]
      have := ih
      rw [hy, h0, Bool.xor_false] at this
      rw [this, h1]
    · rw [if_neg hp, ih]
      congr 1
      unfold colsBit
      by_cases hy : py = y
      · have hne : (px.val + 64 - x0 % 64) % 64 ≠ k := by
          intro h
          apply hp
          refine ⟨Fin.ext ?_, hy⟩
          show px.val = (x0 + k) % 64
          have := px.isLt
          omega
        have hiff : (px.val + 64 - x0 % 64) % 64 < k ↔ (px.val + 64 - x0 % 64) % 64 < k + 1 := by omega
        simp only [hiff]
      · simp [hy]

/-- The flag after the columns of a sprite byte: it was up, or some pixel was lit and got a set bit. -/
theorem flag_blitCols (row : Byte) (x0 : Nat) (y : Fin 32) (k : Nat) (hk : k ≤ 64) (acc : Framebuffer × Bool) :
    (blitCols row x0 y k acc).2 = true ↔
      acc.2 = true ∨ ∃ px py, acc.1.pixel px py = true ∧ colsBit row x0 y k px py = true := by
  induction k with
  | zero => simp [blitCols, colsBit]
  | succ k ih =>
    have hk' : k ≤ 64 := by omega
    rw [blitCols]
    simp only [blitPixel, Bool.or_eq_true, Bool.and_eq_true]
    rw [ih hk', pixel_blitCols row x0 y k hk']
    have hk0 : ((wrapX (x0 + k)).val + 64 - x0 % 64) % 64 = k := by
      show ((x0 + k) % 64 + 64 - x0 % 64) % 64 = k
      omega
    have h0 : colsBit row x0 y k (wrapX (x0 + k)) y = false := by simp [colsBit, hk0]
    have h1 : colsBit row x0 y (k + 1) (wrapX (x0 + k)) y = spriteBit row k := by simp [colsBit, hk0]
    rw [h0, Bool.xor_false]
    constructor
    · rintro ((h | ⟨px, py, hl, hb⟩) | ⟨hb, hl⟩)
      · exact .inl h
      · refine .inr ⟨px, py, hl, ?_⟩
        simp only [colsBit, Bool.and_eq_true, decide_eq_true_eq] at hb ⊢
        exact ⟨⟨hb.1.1, by omega⟩, hb.2⟩
      · exact .inr ⟨_, _, hl, h1.trans hb⟩
    · rintro (h | ⟨px, py, hl, hb⟩)
      · exact .inl (.inl h)
      · by_cases hc : (px.val + 64 - x0 % 64) % 64 < k
        · refine .inl (.inr ⟨px, py, hl, ?_⟩)
          simp only [colsBit, Bool.and_eq_true, decide_eq_true_eq] at hb ⊢
          exact ⟨⟨hb.1.1, hc⟩, hb.2⟩
        · simp only [colsBit, Bool.and_eq_true, decide_eq_true_eq] at hb
          have hck : (px.val + 64 - x0 % 64) % 64 = k := by omega
          have hpx : px = wrapX (x0 + k) := by
            apply Fin.ext
            show px.val = (x0 + k) % 64
            have := px.isLt
            omega
          right
          rw [← hpx, ← hb.1.1]
          exact ⟨hck ▸ hb.2, hl⟩

/-- The bit that the first `n` rows of a sprite with its corner at (`x0`, `y0`) bring to a pixel (45_display.md R191). -/
def rowsBit (rowAt : Nat → Byte) (x0 y0 n : Nat) (px : Fin 64) (py : Fin 32) : Bool :=
  decide ((px.val + 64 - x0 % 64) % 64 < 8) && decide ((py.val + 32 - y0 % 32) % 32 < n) &&
    spriteBit (rowAt ((py.val + 32 - y0 % 32) % 32)) ((px.val + 64 - x0 % 64) % 64)

theorem colsBit_at (rowAt : Nat → Byte) (x0 y0 n : Nat) (hn : n < 32) (px : Fin 64) (py : Fin 32) :
    colsBit (rowAt n) x0 (wrapY (y0 + n)) 8 px py =
      (decide ((py.val + 32 - y0 % 32) % 32 = n) && rowsBit rowAt x0 y0 (n + 1) px py) := by
  have hiff : py = wrapY (y0 + n) ↔ (py.val + 32 - y0 % 32) % 32 = n := by
    rw [Fin.ext_iff]
    show py.val = (y0 + n) % 32 ↔ _
    have := py.isLt
    omega
  unfold colsBit rowsBit
  have hd : decide (py = wrapY (y0 + n)) = decide ((py.val + 32 - y0 % 32) % 32 = n) := decide_eq_decide.2 hiff
  rw [hd]
  by_cases h : (py.val + 32 - y0 % 32) % 32 = n <;> simp [h]

theorem rowsBit_succ (rowAt : Nat → Byte) (x0 y0 n : Nat) (px : Fin 64) (py : Fin 32) :
    rowsBit rowAt x0 y0 (n + 1) px py =
      if (py.val + 32 - y0 % 32) % 32 = n then rowsBit rowAt x0 y0 (n + 1) px py
      else rowsBit rowAt x0 y0 n px py := by
  split
  · rfl
  · rename_i h
    have hiff : (py.val + 32 - y0 % 32) % 32 < n + 1 ↔ (py.val + 32 - y0 % 32) % 32 < n := by omega
    simp only [rowsBit, hiff]

theorem rowsBit_eq_false (rowAt : Nat → Byte) (x0 y0 n : Nat) (px : Fin 64) (py : Fin 32)
    (h : (py.val + 32 - y0 % 32) % 32 = n) : rowsBit rowAt x0 y0 n px py = false := by
  simp [rowsBit, h]

/-- A sprite of at most 32 rows XORs its bits into the pixels: no two of them meet (45_display.md R191 (c)). -/
theorem pixel_blitRows (rowAt : Nat → Byte) (x0 y0 n : Nat) (hn : n ≤ 32) (acc : Framebuffer × Bool)
    (px : Fin 64) (py : Fin 32) :
    (blitRows rowAt x0 y0 n acc).1.pixel px py = (acc.1.pixel px py ^^ rowsBit rowAt x0 y0 n px py) := by
  induction n with
  | zero => simp [blitRows, rowsBit]
  | succ n ih =>
    rw [blitRows, pixel_blitCols _ _ _ _ (by omega), ih (by omega), colsBit_at _ _ _ _ (by omega)]
    by_cases h : (py.val + 32 - y0 % 32) % 32 = n
    · rw [rowsBit_eq_false _ _ _ _ _ _ h]
      simp [h]
    · rw [rowsBit_succ]
      simp [h]

/-- The collision flag of a sprite of at most 32 rows: some pixel was lit and got a set bit (45_display.md R191). -/
theorem flag_blitRows (rowAt : Nat → Byte) (x0 y0 n : Nat) (hn : n ≤ 32) (acc : Framebuffer × Bool) :
    (blitRows rowAt x0 y0 n acc).2 = true ↔
      acc.2 = true ∨ ∃ px py, acc.1.pixel px py = true ∧ rowsBit rowAt x0 y0 n px py = true := by
  induction n with
  | zero => simp [blitRows, rowsBit]
  | succ n ih =>
    rw [blitRows, flag_blitCols _ _ _ _ (by omega), ih (by omega)]
    constructor
    · rintro ((h | ⟨px, py, hl, hb⟩) | ⟨px, py, hl, hb⟩)
      · exact .inl h
      · refine .inr ⟨px, py, hl, ?_⟩
        simp only [rowsBit, Bool.and_eq_true, decide_eq_true_eq] at hb ⊢
        exact ⟨⟨hb.1.1, by omega⟩, hb.2⟩
      · rw [colsBit_at _ _ _ _ (by omega), Bool.and_eq_true, decide_eq_true_eq] at hb
        rw [pixel_blitRows _ _ _ _ (by omega), rowsBit_eq_false _ _ _ _ _ _ hb.1, Bool.xor_false] at hl
        exact .inr ⟨px, py, hl, hb.2⟩
    · rintro (h | ⟨px, py, hl, hb⟩)
      · exact .inl (.inl h)
      · by_cases hr : (py.val + 32 - y0 % 32) % 32 = n
        · refine .inr ⟨px, py, ?_, ?_⟩
          · rw [pixel_blitRows _ _ _ _ (by omega), rowsBit_eq_false _ _ _ _ _ _ hr, Bool.xor_false]
            exact hl
          · rw [colsBit_at _ _ _ _ (by omega), hb, hr]
            simp
        · rw [rowsBit_succ, if_neg hr] at hb
          exact .inl (.inr ⟨px, py, hl, hb⟩)

end Sys2Proof.Machine
end

