-- ==== Sys2Proof/Laws/Memory.lean ====
section
/-! SUPPORT. Memory: what a read gives after a write, and that every operation keeps the canonical form. -/

namespace Sys2Proof.Machine

variable (font : Font)

@[simp] theorem Memory.read_nil (a : Nat) : Memory.read font [] a = Memory.unlisted font a := rfl

@[simp] theorem Memory.read_cons (b a : Nat) (w : Byte) (m : Memory) :
    Memory.read font ((b, w) :: m) a = if b = a then w else Memory.read font m a := rfl

@[simp] theorem Memory.without_nil (a : Nat) : Memory.without [] a = [] := rfl

theorem Memory.without_cons (b a : Nat) (w : Byte) (m : Memory) :
    Memory.without ((b, w) :: m) a = if b = a then Memory.without m a else (b, w) :: Memory.without m a := by
  by_cases h : b = a <;> simp [Memory.without, h]

theorem Memory.read_without (m : Memory) (a b : Nat) :
    Memory.read font (m.without a) b = if b = a then Memory.unlisted font a else Memory.read font m b := by
  induction m with
  | nil => simp +contextual
  | cons c m ih =>
    obtain ⟨c, w⟩ := c
    rw [Memory.without_cons]
    by_cases hca : c = a
    · rw [if_pos hca, ih, Memory.read_cons]
      split
      · rfl
      · rw [if_neg (fun h => ‹¬ b = a› (h.symm.trans hca))]
    · rw [if_neg hca, Memory.read_cons, Memory.read_cons, ih]
      by_cases hba : b = a
      · rw [if_pos hba, if_pos hba, if_neg (fun h => hca (h.trans hba))]
      · rw [if_neg hba, if_neg hba]

theorem Memory.read_place (m : Memory) (a b : Nat) (v : Byte) (h : m.without a = m) :
    Memory.read font (Memory.place a v m) b = if b = a then v else Memory.read font m b := by
  induction m with
  | nil => by_cases hab : a = b <;> simp [Memory.place, hab, eq_comm]
  | cons c m ih =>
    obtain ⟨c, w⟩ := c
    rw [Memory.without_cons] at h
    have hca : c ≠ a := by
      intro hc
      rw [if_pos hc] at h
      have := congrArg List.length h
      have hle : (Memory.without m a).length ≤ m.length := List.length_filter_le ..
      simp at this
      omega
    rw [if_neg hca] at h
    have hm : Memory.without m a = m := (List.cons.inj h).2
    unfold Memory.place
    split
    · rw [Memory.read_cons]
      simp only [eq_comm]
    · rw [Memory.read_cons, Memory.read_cons, ih hm]
      by_cases hcb : c = b
      · rw [if_pos hcb, if_pos hcb, if_neg (fun h => hca (hcb.trans h))]
      · rw [if_neg hcb, if_neg hcb]

theorem Memory.without_without (m : Memory) (a : Nat) : (m.without a).without a = m.without a := by
  simp [Memory.without]

/-- A read after a write gives the value written at the address written, and every other address reads as before
(20_memory.md R66, R67). -/
theorem Memory.read_write (m : Memory) (a b : Nat) (v : Byte) :
    Memory.read font (Memory.write font m a v) b = if b = a then v else Memory.read font m b := by
  unfold Memory.write
  split
  · rename_i hv
    rw [Memory.read_without, hv]
  · rw [Memory.read_place _ _ _ _ _ (Memory.without_without m a), Memory.read_without]
    split <;> rfl

/-! ### The canonical form -/

theorem Memory.wfFrom_mono {lo lo' : Nat} {m : Memory} (h : lo' ≤ lo) (hm : Memory.wfFrom font lo m = true) :
    Memory.wfFrom font lo' m = true := by
  cases m with
  | nil => rfl
  | cons c m =>
    obtain ⟨c, w⟩ := c
    simp only [Memory.wfFrom, Bool.and_eq_true, decide_eq_true_eq] at hm ⊢
    exact ⟨⟨⟨le_trans h hm.1.1.1, hm.1.1.2⟩, hm.1.2⟩, hm.2⟩

theorem Memory.wfFrom_without {lo : Nat} {m : Memory} (a : Nat) (hm : Memory.wfFrom font lo m = true) :
    Memory.wfFrom font lo (m.without a) = true := by
  induction m generalizing lo with
  | nil => rfl
  | cons c m ih =>
    obtain ⟨c, w⟩ := c
    simp only [Memory.wfFrom, Bool.and_eq_true, decide_eq_true_eq] at hm
    rw [Memory.without_cons]
    split
    · exact Memory.wfFrom_mono font (by omega) (ih hm.2)
    · simp only [Memory.wfFrom, Bool.and_eq_true, decide_eq_true_eq]
      exact ⟨hm.1, ih hm.2⟩

theorem Memory.wfFrom_place {lo : Nat} {m : Memory} {a : Nat} {v : Byte} (hlo : lo ≤ a) (ha : a < Config.memSize)
    (hv : v ≠ Memory.unlisted font a) (he : m.without a = m) (hm : Memory.wfFrom font lo m = true) :
    Memory.wfFrom font lo (Memory.place a v m) = true := by
  induction m generalizing lo with
  | nil => simp [Memory.place, Memory.wfFrom, hlo, ha, hv]
  | cons c m ih =>
    obtain ⟨c, w⟩ := c
    have hca : c ≠ a := by
      intro hc
      rw [Memory.without_cons, if_pos hc] at he
      have := congrArg List.length he
      have hle : (Memory.without m a).length ≤ m.length := List.length_filter_le ..
      simp at this
      omega
    rw [Memory.without_cons, if_neg hca] at he
    have he' : Memory.without m a = m := (List.cons.inj he).2
    simp only [Memory.wfFrom, Bool.and_eq_true, decide_eq_true_eq] at hm
    unfold Memory.place
    split
    · simp only [Memory.wfFrom, Bool.and_eq_true, decide_eq_true_eq, bne_iff_ne, ne_eq]
      exact ⟨⟨⟨hlo, ha⟩, hv⟩, ⟨⟨by omega, hm.1.1.2⟩, by simpa using hm.1.2⟩, hm.2⟩
    · simp only [Memory.wfFrom, Bool.and_eq_true, decide_eq_true_eq]
      exact ⟨hm.1, ih (by omega) he' hm.2⟩

/-- A write to an address of memory keeps the canonical form. -/
theorem Memory.wf_write {m : Memory} {a : Nat} (v : Byte) (ha : a < Config.memSize) (hm : Memory.wf font m = true) :
    Memory.wf font (Memory.write font m a v) = true := by
  unfold Memory.write
  split
  · exact Memory.wfFrom_without font a hm
  · exact Memory.wfFrom_place font (Nat.zero_le a) ha ‹_› (Memory.without_without m a)
      (Memory.wfFrom_without font a hm)

theorem Memory.wf_nil : Memory.wf font [] = true := rfl

theorem Memory.wf_reset (p : Params) (now : Nat) : Memory.wf p.font (State.resetWith p now).mem = true := rfl

/-- A reduced address is an address of memory (20_memory.md R65). -/
theorem reduceAddr_lt (a : Nat) : reduceAddr a < Config.memSize := Nat.mod_lt a (by decide)

end Sys2Proof.Machine
end

