-- ==== Sys2Proof/Laws/State.lean ====
section
/-! SUPPORT. One lemma per field per named update of the state, true by rfl, so that no later proof unfolds an update. -/

namespace Sys2Proof.Machine

variable (s : State)

/-! ### setReg -/

@[simp] theorem State.setReg_mem (x : RegIdx) (v : Byte) : (s.setReg x v).mem = s.mem := rfl
@[simp] theorem State.setReg_V (x : RegIdx) (v : Byte) : (s.setReg x v).V = s.V.set x v := rfl
@[simp] theorem State.setReg_I (x : RegIdx) (v : Byte) : (s.setReg x v).I = s.I := rfl
@[simp] theorem State.setReg_pc (x : RegIdx) (v : Byte) : (s.setReg x v).pc = s.pc := rfl
@[simp] theorem State.setReg_stack (x : RegIdx) (v : Byte) : (s.setReg x v).stack = s.stack := rfl
@[simp] theorem State.setReg_sp (x : RegIdx) (v : Byte) : (s.setReg x v).sp = s.sp := rfl
@[simp] theorem State.setReg_dt (x : RegIdx) (v : Byte) : (s.setReg x v).dt = s.dt := rfl
@[simp] theorem State.setReg_st (x : RegIdx) (v : Byte) : (s.setReg x v).st = s.st := rfl
@[simp] theorem State.setReg_fb (x : RegIdx) (v : Byte) : (s.setReg x v).fb = s.fb := rfl
@[simp] theorem State.setReg_keys (x : RegIdx) (v : Byte) : (s.setReg x v).keys = s.keys := rfl
@[simp] theorem State.setReg_lastTick (x : RegIdx) (v : Byte) : (s.setReg x v).lastTick = s.lastTick := rfl
@[simp] theorem State.setReg_rnd (x : RegIdx) (v : Byte) : (s.setReg x v).rnd = s.rnd := rfl
@[simp] theorem State.setReg_now (x : RegIdx) (v : Byte) : (s.setReg x v).now = s.now := rfl
@[simp] theorem State.setReg_err (x : RegIdx) (v : Byte) : (s.setReg x v).err = s.err := rfl
@[simp] theorem State.setReg_oob (x : RegIdx) (v : Byte) : (s.setReg x v).oob = s.oob := rfl
@[simp] theorem State.setReg_inputs (x : RegIdx) (v : Byte) : (s.setReg x v).inputs = s.inputs := rfl
@[simp] theorem State.setReg_stepNo (x : RegIdx) (v : Byte) : (s.setReg x v).stepNo = s.stepNo := rfl
@[simp] theorem State.setReg_params (x : RegIdx) (v : Byte) : (s.setReg x v).params = s.params := rfl
@[simp] theorem State.setReg_loadOpen (x : RegIdx) (v : Byte) : (s.setReg x v).loadOpen = s.loadOpen := rfl

/-! ### setFlag -/

@[simp] theorem State.setFlag_mem (f : Bool) : (s.setFlag f).mem = s.mem := rfl
@[simp] theorem State.setFlag_V (f : Bool) : (s.setFlag f).V = s.V.set Config.flagReg (flagByte f) := rfl
@[simp] theorem State.setFlag_I (f : Bool) : (s.setFlag f).I = s.I := rfl
@[simp] theorem State.setFlag_pc (f : Bool) : (s.setFlag f).pc = s.pc := rfl
@[simp] theorem State.setFlag_stack (f : Bool) : (s.setFlag f).stack = s.stack := rfl
@[simp] theorem State.setFlag_sp (f : Bool) : (s.setFlag f).sp = s.sp := rfl
@[simp] theorem State.setFlag_dt (f : Bool) : (s.setFlag f).dt = s.dt := rfl
@[simp] theorem State.setFlag_st (f : Bool) : (s.setFlag f).st = s.st := rfl
@[simp] theorem State.setFlag_fb (f : Bool) : (s.setFlag f).fb = s.fb := rfl
@[simp] theorem State.setFlag_keys (f : Bool) : (s.setFlag f).keys = s.keys := rfl
@[simp] theorem State.setFlag_lastTick (f : Bool) : (s.setFlag f).lastTick = s.lastTick := rfl
@[simp] theorem State.setFlag_rnd (f : Bool) : (s.setFlag f).rnd = s.rnd := rfl
@[simp] theorem State.setFlag_now (f : Bool) : (s.setFlag f).now = s.now := rfl
@[simp] theorem State.setFlag_err (f : Bool) : (s.setFlag f).err = s.err := rfl
@[simp] theorem State.setFlag_oob (f : Bool) : (s.setFlag f).oob = s.oob := rfl
@[simp] theorem State.setFlag_inputs (f : Bool) : (s.setFlag f).inputs = s.inputs := rfl
@[simp] theorem State.setFlag_stepNo (f : Bool) : (s.setFlag f).stepNo = s.stepNo := rfl
@[simp] theorem State.setFlag_params (f : Bool) : (s.setFlag f).params = s.params := rfl
@[simp] theorem State.setFlag_loadOpen (f : Bool) : (s.setFlag f).loadOpen = s.loadOpen := rfl

/-! ### setI -/

@[simp] theorem State.setI_mem (v : Word16) : (s.setI v).mem = s.mem := rfl
@[simp] theorem State.setI_V (v : Word16) : (s.setI v).V = s.V := rfl
@[simp] theorem State.setI_I (v : Word16) : (s.setI v).I = v := rfl
@[simp] theorem State.setI_pc (v : Word16) : (s.setI v).pc = s.pc := rfl
@[simp] theorem State.setI_stack (v : Word16) : (s.setI v).stack = s.stack := rfl
@[simp] theorem State.setI_sp (v : Word16) : (s.setI v).sp = s.sp := rfl
@[simp] theorem State.setI_dt (v : Word16) : (s.setI v).dt = s.dt := rfl
@[simp] theorem State.setI_st (v : Word16) : (s.setI v).st = s.st := rfl
@[simp] theorem State.setI_fb (v : Word16) : (s.setI v).fb = s.fb := rfl
@[simp] theorem State.setI_keys (v : Word16) : (s.setI v).keys = s.keys := rfl
@[simp] theorem State.setI_lastTick (v : Word16) : (s.setI v).lastTick = s.lastTick := rfl
@[simp] theorem State.setI_rnd (v : Word16) : (s.setI v).rnd = s.rnd := rfl
@[simp] theorem State.setI_now (v : Word16) : (s.setI v).now = s.now := rfl
@[simp] theorem State.setI_err (v : Word16) : (s.setI v).err = s.err := rfl
@[simp] theorem State.setI_oob (v : Word16) : (s.setI v).oob = s.oob := rfl
@[simp] theorem State.setI_inputs (v : Word16) : (s.setI v).inputs = s.inputs := rfl
@[simp] theorem State.setI_stepNo (v : Word16) : (s.setI v).stepNo = s.stepNo := rfl
@[simp] theorem State.setI_params (v : Word16) : (s.setI v).params = s.params := rfl
@[simp] theorem State.setI_loadOpen (v : Word16) : (s.setI v).loadOpen = s.loadOpen := rfl

/-! ### setPc -/

@[simp] theorem State.setPc_mem (v : Word16) : (s.setPc v).mem = s.mem := rfl
@[simp] theorem State.setPc_V (v : Word16) : (s.setPc v).V = s.V := rfl
@[simp] theorem State.setPc_I (v : Word16) : (s.setPc v).I = s.I := rfl
@[simp] theorem State.setPc_pc (v : Word16) : (s.setPc v).pc = v := rfl
@[simp] theorem State.setPc_stack (v : Word16) : (s.setPc v).stack = s.stack := rfl
@[simp] theorem State.setPc_sp (v : Word16) : (s.setPc v).sp = s.sp := rfl
@[simp] theorem State.setPc_dt (v : Word16) : (s.setPc v).dt = s.dt := rfl
@[simp] theorem State.setPc_st (v : Word16) : (s.setPc v).st = s.st := rfl
@[simp] theorem State.setPc_fb (v : Word16) : (s.setPc v).fb = s.fb := rfl
@[simp] theorem State.setPc_keys (v : Word16) : (s.setPc v).keys = s.keys := rfl
@[simp] theorem State.setPc_lastTick (v : Word16) : (s.setPc v).lastTick = s.lastTick := rfl
@[simp] theorem State.setPc_rnd (v : Word16) : (s.setPc v).rnd = s.rnd := rfl
@[simp] theorem State.setPc_now (v : Word16) : (s.setPc v).now = s.now := rfl
@[simp] theorem State.setPc_err (v : Word16) : (s.setPc v).err = s.err := rfl
@[simp] theorem State.setPc_oob (v : Word16) : (s.setPc v).oob = s.oob := rfl
@[simp] theorem State.setPc_inputs (v : Word16) : (s.setPc v).inputs = s.inputs := rfl
@[simp] theorem State.setPc_stepNo (v : Word16) : (s.setPc v).stepNo = s.stepNo := rfl
@[simp] theorem State.setPc_params (v : Word16) : (s.setPc v).params = s.params := rfl
@[simp] theorem State.setPc_loadOpen (v : Word16) : (s.setPc v).loadOpen = s.loadOpen := rfl

/-! ### setDt -/

@[simp] theorem State.setDt_mem (v : Byte) : (s.setDt v).mem = s.mem := rfl
@[simp] theorem State.setDt_V (v : Byte) : (s.setDt v).V = s.V := rfl
@[simp] theorem State.setDt_I (v : Byte) : (s.setDt v).I = s.I := rfl
@[simp] theorem State.setDt_pc (v : Byte) : (s.setDt v).pc = s.pc := rfl
@[simp] theorem State.setDt_stack (v : Byte) : (s.setDt v).stack = s.stack := rfl
@[simp] theorem State.setDt_sp (v : Byte) : (s.setDt v).sp = s.sp := rfl
@[simp] theorem State.setDt_dt (v : Byte) : (s.setDt v).dt = v := rfl
@[simp] theorem State.setDt_st (v : Byte) : (s.setDt v).st = s.st := rfl
@[simp] theorem State.setDt_fb (v : Byte) : (s.setDt v).fb = s.fb := rfl
@[simp] theorem State.setDt_keys (v : Byte) : (s.setDt v).keys = s.keys := rfl
@[simp] theorem State.setDt_lastTick (v : Byte) : (s.setDt v).lastTick = s.lastTick := rfl
@[simp] theorem State.setDt_rnd (v : Byte) : (s.setDt v).rnd = s.rnd := rfl
@[simp] theorem State.setDt_now (v : Byte) : (s.setDt v).now = s.now := rfl
@[simp] theorem State.setDt_err (v : Byte) : (s.setDt v).err = s.err := rfl
@[simp] theorem State.setDt_oob (v : Byte) : (s.setDt v).oob = s.oob := rfl
@[simp] theorem State.setDt_inputs (v : Byte) : (s.setDt v).inputs = s.inputs := rfl
@[simp] theorem State.setDt_stepNo (v : Byte) : (s.setDt v).stepNo = s.stepNo := rfl
@[simp] theorem State.setDt_params (v : Byte) : (s.setDt v).params = s.params := rfl
@[simp] theorem State.setDt_loadOpen (v : Byte) : (s.setDt v).loadOpen = s.loadOpen := rfl

/-! ### setSt -/

@[simp] theorem State.setSt_mem (v : Byte) : (s.setSt v).mem = s.mem := rfl
@[simp] theorem State.setSt_V (v : Byte) : (s.setSt v).V = s.V := rfl
@[simp] theorem State.setSt_I (v : Byte) : (s.setSt v).I = s.I := rfl
@[simp] theorem State.setSt_pc (v : Byte) : (s.setSt v).pc = s.pc := rfl
@[simp] theorem State.setSt_stack (v : Byte) : (s.setSt v).stack = s.stack := rfl
@[simp] theorem State.setSt_sp (v : Byte) : (s.setSt v).sp = s.sp := rfl
@[simp] theorem State.setSt_dt (v : Byte) : (s.setSt v).dt = s.dt := rfl
@[simp] theorem State.setSt_st (v : Byte) : (s.setSt v).st = v := rfl
@[simp] theorem State.setSt_fb (v : Byte) : (s.setSt v).fb = s.fb := rfl
@[simp] theorem State.setSt_keys (v : Byte) : (s.setSt v).keys = s.keys := rfl
@[simp] theorem State.setSt_lastTick (v : Byte) : (s.setSt v).lastTick = s.lastTick := rfl
@[simp] theorem State.setSt_rnd (v : Byte) : (s.setSt v).rnd = s.rnd := rfl
@[simp] theorem State.setSt_now (v : Byte) : (s.setSt v).now = s.now := rfl
@[simp] theorem State.setSt_err (v : Byte) : (s.setSt v).err = s.err := rfl
@[simp] theorem State.setSt_oob (v : Byte) : (s.setSt v).oob = s.oob := rfl
@[simp] theorem State.setSt_inputs (v : Byte) : (s.setSt v).inputs = s.inputs := rfl
@[simp] theorem State.setSt_stepNo (v : Byte) : (s.setSt v).stepNo = s.stepNo := rfl
@[simp] theorem State.setSt_params (v : Byte) : (s.setSt v).params = s.params := rfl
@[simp] theorem State.setSt_loadOpen (v : Byte) : (s.setSt v).loadOpen = s.loadOpen := rfl

/-! ### setFb -/

@[simp] theorem State.setFb_mem (f : Framebuffer) : (s.setFb f).mem = s.mem := rfl
@[simp] theorem State.setFb_V (f : Framebuffer) : (s.setFb f).V = s.V := rfl
@[simp] theorem State.setFb_I (f : Framebuffer) : (s.setFb f).I = s.I := rfl
@[simp] theorem State.setFb_pc (f : Framebuffer) : (s.setFb f).pc = s.pc := rfl
@[simp] theorem State.setFb_stack (f : Framebuffer) : (s.setFb f).stack = s.stack := rfl
@[simp] theorem State.setFb_sp (f : Framebuffer) : (s.setFb f).sp = s.sp := rfl
@[simp] theorem State.setFb_dt (f : Framebuffer) : (s.setFb f).dt = s.dt := rfl
@[simp] theorem State.setFb_st (f : Framebuffer) : (s.setFb f).st = s.st := rfl
@[simp] theorem State.setFb_fb (f : Framebuffer) : (s.setFb f).fb = f := rfl
@[simp] theorem State.setFb_keys (f : Framebuffer) : (s.setFb f).keys = s.keys := rfl
@[simp] theorem State.setFb_lastTick (f : Framebuffer) : (s.setFb f).lastTick = s.lastTick := rfl
@[simp] theorem State.setFb_rnd (f : Framebuffer) : (s.setFb f).rnd = s.rnd := rfl
@[simp] theorem State.setFb_now (f : Framebuffer) : (s.setFb f).now = s.now := rfl
@[simp] theorem State.setFb_err (f : Framebuffer) : (s.setFb f).err = s.err := rfl
@[simp] theorem State.setFb_oob (f : Framebuffer) : (s.setFb f).oob = s.oob := rfl
@[simp] theorem State.setFb_inputs (f : Framebuffer) : (s.setFb f).inputs = s.inputs := rfl
@[simp] theorem State.setFb_stepNo (f : Framebuffer) : (s.setFb f).stepNo = s.stepNo := rfl
@[simp] theorem State.setFb_params (f : Framebuffer) : (s.setFb f).params = s.params := rfl
@[simp] theorem State.setFb_loadOpen (f : Framebuffer) : (s.setFb f).loadOpen = s.loadOpen := rfl

/-! ### markOob -/

@[simp] theorem State.markOob_mem (a : Nat) : (s.markOob a).mem = s.mem := rfl
@[simp] theorem State.markOob_V (a : Nat) : (s.markOob a).V = s.V := rfl
@[simp] theorem State.markOob_I (a : Nat) : (s.markOob a).I = s.I := rfl
@[simp] theorem State.markOob_pc (a : Nat) : (s.markOob a).pc = s.pc := rfl
@[simp] theorem State.markOob_stack (a : Nat) : (s.markOob a).stack = s.stack := rfl
@[simp] theorem State.markOob_sp (a : Nat) : (s.markOob a).sp = s.sp := rfl
@[simp] theorem State.markOob_dt (a : Nat) : (s.markOob a).dt = s.dt := rfl
@[simp] theorem State.markOob_st (a : Nat) : (s.markOob a).st = s.st := rfl
@[simp] theorem State.markOob_fb (a : Nat) : (s.markOob a).fb = s.fb := rfl
@[simp] theorem State.markOob_keys (a : Nat) : (s.markOob a).keys = s.keys := rfl
@[simp] theorem State.markOob_lastTick (a : Nat) : (s.markOob a).lastTick = s.lastTick := rfl
@[simp] theorem State.markOob_rnd (a : Nat) : (s.markOob a).rnd = s.rnd := rfl
@[simp] theorem State.markOob_now (a : Nat) : (s.markOob a).now = s.now := rfl
@[simp] theorem State.markOob_err (a : Nat) : (s.markOob a).err = s.err := rfl
@[simp] theorem State.markOob_oob (a : Nat) : (s.markOob a).oob = (s.oob || decide (a > 0xFFF)) := rfl
@[simp] theorem State.markOob_inputs (a : Nat) : (s.markOob a).inputs = s.inputs := rfl
@[simp] theorem State.markOob_stepNo (a : Nat) : (s.markOob a).stepNo = s.stepNo := rfl
@[simp] theorem State.markOob_params (a : Nat) : (s.markOob a).params = s.params := rfl
@[simp] theorem State.markOob_loadOpen (a : Nat) : (s.markOob a).loadOpen = s.loadOpen := rfl

/-! ### poke -/

@[simp] theorem State.poke_mem (a : Nat) (v : Byte) : (s.poke a v).mem = Memory.write s.params.font s.mem (reduceAddr a) v := rfl
@[simp] theorem State.poke_V (a : Nat) (v : Byte) : (s.poke a v).V = s.V := rfl
@[simp] theorem State.poke_I (a : Nat) (v : Byte) : (s.poke a v).I = s.I := rfl
@[simp] theorem State.poke_pc (a : Nat) (v : Byte) : (s.poke a v).pc = s.pc := rfl
@[simp] theorem State.poke_stack (a : Nat) (v : Byte) : (s.poke a v).stack = s.stack := rfl
@[simp] theorem State.poke_sp (a : Nat) (v : Byte) : (s.poke a v).sp = s.sp := rfl
@[simp] theorem State.poke_dt (a : Nat) (v : Byte) : (s.poke a v).dt = s.dt := rfl
@[simp] theorem State.poke_st (a : Nat) (v : Byte) : (s.poke a v).st = s.st := rfl
@[simp] theorem State.poke_fb (a : Nat) (v : Byte) : (s.poke a v).fb = s.fb := rfl
@[simp] theorem State.poke_keys (a : Nat) (v : Byte) : (s.poke a v).keys = s.keys := rfl
@[simp] theorem State.poke_lastTick (a : Nat) (v : Byte) : (s.poke a v).lastTick = s.lastTick := rfl
@[simp] theorem State.poke_rnd (a : Nat) (v : Byte) : (s.poke a v).rnd = s.rnd := rfl
@[simp] theorem State.poke_now (a : Nat) (v : Byte) : (s.poke a v).now = s.now := rfl
@[simp] theorem State.poke_err (a : Nat) (v : Byte) : (s.poke a v).err = s.err := rfl
@[simp] theorem State.poke_oob (a : Nat) (v : Byte) : (s.poke a v).oob = (s.oob || decide (a > 0xFFF)) := rfl
@[simp] theorem State.poke_inputs (a : Nat) (v : Byte) : (s.poke a v).inputs = s.inputs := rfl
@[simp] theorem State.poke_stepNo (a : Nat) (v : Byte) : (s.poke a v).stepNo = s.stepNo := rfl
@[simp] theorem State.poke_params (a : Nat) (v : Byte) : (s.poke a v).params = s.params := rfl
@[simp] theorem State.poke_loadOpen (a : Nat) (v : Byte) : (s.poke a v).loadOpen = s.loadOpen := rfl

/-! ### push -/

@[simp] theorem State.push_mem (v : Word16) (h : s.sp.val < 16) : (s.push v h).mem = s.mem := rfl
@[simp] theorem State.push_V (v : Word16) (h : s.sp.val < 16) : (s.push v h).V = s.V := rfl
@[simp] theorem State.push_I (v : Word16) (h : s.sp.val < 16) : (s.push v h).I = s.I := rfl
@[simp] theorem State.push_pc (v : Word16) (h : s.sp.val < 16) : (s.push v h).pc = s.pc := rfl
@[simp] theorem State.push_stack (v : Word16) (h : s.sp.val < 16) : (s.push v h).stack = s.stack.set s.sp.val v h := rfl
@[simp] theorem State.push_sp (v : Word16) (h : s.sp.val < 16) : (s.push v h).sp = ⟨s.sp.val + 1, Nat.succ_lt_succ h⟩ := rfl
@[simp] theorem State.push_dt (v : Word16) (h : s.sp.val < 16) : (s.push v h).dt = s.dt := rfl
@[simp] theorem State.push_st (v : Word16) (h : s.sp.val < 16) : (s.push v h).st = s.st := rfl
@[simp] theorem State.push_fb (v : Word16) (h : s.sp.val < 16) : (s.push v h).fb = s.fb := rfl
@[simp] theorem State.push_keys (v : Word16) (h : s.sp.val < 16) : (s.push v h).keys = s.keys := rfl
@[simp] theorem State.push_lastTick (v : Word16) (h : s.sp.val < 16) : (s.push v h).lastTick = s.lastTick := rfl
@[simp] theorem State.push_rnd (v : Word16) (h : s.sp.val < 16) : (s.push v h).rnd = s.rnd := rfl
@[simp] theorem State.push_now (v : Word16) (h : s.sp.val < 16) : (s.push v h).now = s.now := rfl
@[simp] theorem State.push_err (v : Word16) (h : s.sp.val < 16) : (s.push v h).err = s.err := rfl
@[simp] theorem State.push_oob (v : Word16) (h : s.sp.val < 16) : (s.push v h).oob = s.oob := rfl
@[simp] theorem State.push_inputs (v : Word16) (h : s.sp.val < 16) : (s.push v h).inputs = s.inputs := rfl
@[simp] theorem State.push_stepNo (v : Word16) (h : s.sp.val < 16) : (s.push v h).stepNo = s.stepNo := rfl
@[simp] theorem State.push_params (v : Word16) (h : s.sp.val < 16) : (s.push v h).params = s.params := rfl
@[simp] theorem State.push_loadOpen (v : Word16) (h : s.sp.val < 16) : (s.push v h).loadOpen = s.loadOpen := rfl

/-! ### drop -/

@[simp] theorem State.drop_mem : (s.drop).mem = s.mem := rfl
@[simp] theorem State.drop_V : (s.drop).V = s.V := rfl
@[simp] theorem State.drop_I : (s.drop).I = s.I := rfl
@[simp] theorem State.drop_pc : (s.drop).pc = s.pc := rfl
@[simp] theorem State.drop_stack : (s.drop).stack = s.stack := rfl
@[simp] theorem State.drop_sp : (s.drop).sp = ⟨s.sp.val - 1, by have := s.sp.isLt; omega⟩ := rfl
@[simp] theorem State.drop_dt : (s.drop).dt = s.dt := rfl
@[simp] theorem State.drop_st : (s.drop).st = s.st := rfl
@[simp] theorem State.drop_fb : (s.drop).fb = s.fb := rfl
@[simp] theorem State.drop_keys : (s.drop).keys = s.keys := rfl
@[simp] theorem State.drop_lastTick : (s.drop).lastTick = s.lastTick := rfl
@[simp] theorem State.drop_rnd : (s.drop).rnd = s.rnd := rfl
@[simp] theorem State.drop_now : (s.drop).now = s.now := rfl
@[simp] theorem State.drop_err : (s.drop).err = s.err := rfl
@[simp] theorem State.drop_oob : (s.drop).oob = s.oob := rfl
@[simp] theorem State.drop_inputs : (s.drop).inputs = s.inputs := rfl
@[simp] theorem State.drop_stepNo : (s.drop).stepNo = s.stepNo := rfl
@[simp] theorem State.drop_params : (s.drop).params = s.params := rfl
@[simp] theorem State.drop_loadOpen : (s.drop).loadOpen = s.loadOpen := rfl

/-! ### report -/

@[simp] theorem State.report_mem (k : Report) : (s.report k).mem = s.mem := rfl
@[simp] theorem State.report_V (k : Report) : (s.report k).V = s.V := rfl
@[simp] theorem State.report_I (k : Report) : (s.report k).I = s.I := rfl
@[simp] theorem State.report_pc (k : Report) : (s.report k).pc = s.pc := rfl
@[simp] theorem State.report_stack (k : Report) : (s.report k).stack = s.stack := rfl
@[simp] theorem State.report_sp (k : Report) : (s.report k).sp = s.sp := rfl
@[simp] theorem State.report_dt (k : Report) : (s.report k).dt = s.dt := rfl
@[simp] theorem State.report_st (k : Report) : (s.report k).st = s.st := rfl
@[simp] theorem State.report_fb (k : Report) : (s.report k).fb = s.fb := rfl
@[simp] theorem State.report_keys (k : Report) : (s.report k).keys = s.keys := rfl
@[simp] theorem State.report_lastTick (k : Report) : (s.report k).lastTick = s.lastTick := rfl
@[simp] theorem State.report_rnd (k : Report) : (s.report k).rnd = s.rnd := rfl
@[simp] theorem State.report_now (k : Report) : (s.report k).now = s.now := rfl
@[simp] theorem State.report_err (k : Report) : (s.report k).err = k := rfl
@[simp] theorem State.report_oob (k : Report) : (s.report k).oob = s.oob := rfl
@[simp] theorem State.report_inputs (k : Report) : (s.report k).inputs = s.inputs := rfl
@[simp] theorem State.report_stepNo (k : Report) : (s.report k).stepNo = s.stepNo := rfl
@[simp] theorem State.report_params (k : Report) : (s.report k).params = s.params := rfl
@[simp] theorem State.report_loadOpen (k : Report) : (s.report k).loadOpen = s.loadOpen := rfl

/-! ### skipIf -/

@[simp] theorem State.skipIf_mem (c : Bool) : (s.skipIf c).mem = s.mem := rfl
@[simp] theorem State.skipIf_V (c : Bool) : (s.skipIf c).V = s.V := rfl
@[simp] theorem State.skipIf_I (c : Bool) : (s.skipIf c).I = s.I := rfl
@[simp] theorem State.skipIf_pc (c : Bool) : (s.skipIf c).pc = (if c then s.pc + 2#16 else s.pc) := rfl
@[simp] theorem State.skipIf_stack (c : Bool) : (s.skipIf c).stack = s.stack := rfl
@[simp] theorem State.skipIf_sp (c : Bool) : (s.skipIf c).sp = s.sp := rfl
@[simp] theorem State.skipIf_dt (c : Bool) : (s.skipIf c).dt = s.dt := rfl
@[simp] theorem State.skipIf_st (c : Bool) : (s.skipIf c).st = s.st := rfl
@[simp] theorem State.skipIf_fb (c : Bool) : (s.skipIf c).fb = s.fb := rfl
@[simp] theorem State.skipIf_keys (c : Bool) : (s.skipIf c).keys = s.keys := rfl
@[simp] theorem State.skipIf_lastTick (c : Bool) : (s.skipIf c).lastTick = s.lastTick := rfl
@[simp] theorem State.skipIf_rnd (c : Bool) : (s.skipIf c).rnd = s.rnd := rfl
@[simp] theorem State.skipIf_now (c : Bool) : (s.skipIf c).now = s.now := rfl
@[simp] theorem State.skipIf_err (c : Bool) : (s.skipIf c).err = s.err := rfl
@[simp] theorem State.skipIf_oob (c : Bool) : (s.skipIf c).oob = s.oob := rfl
@[simp] theorem State.skipIf_inputs (c : Bool) : (s.skipIf c).inputs = s.inputs := rfl
@[simp] theorem State.skipIf_stepNo (c : Bool) : (s.skipIf c).stepNo = s.stepNo := rfl
@[simp] theorem State.skipIf_params (c : Bool) : (s.skipIf c).params = s.params := rfl
@[simp] theorem State.skipIf_loadOpen (c : Bool) : (s.skipIf c).loadOpen = s.loadOpen := rfl

/-! ### fetched -/

@[simp] theorem State.fetched_mem : (s.fetched).mem = s.mem := rfl
@[simp] theorem State.fetched_V : (s.fetched).V = s.V := rfl
@[simp] theorem State.fetched_I : (s.fetched).I = s.I := rfl
@[simp] theorem State.fetched_pc : (s.fetched).pc = s.pc + 2#16 := rfl
@[simp] theorem State.fetched_stack : (s.fetched).stack = s.stack := rfl
@[simp] theorem State.fetched_sp : (s.fetched).sp = s.sp := rfl
@[simp] theorem State.fetched_dt : (s.fetched).dt = s.dt := rfl
@[simp] theorem State.fetched_st : (s.fetched).st = s.st := rfl
@[simp] theorem State.fetched_fb : (s.fetched).fb = s.fb := rfl
@[simp] theorem State.fetched_keys : (s.fetched).keys = s.keys := rfl
@[simp] theorem State.fetched_lastTick : (s.fetched).lastTick = s.lastTick := rfl
@[simp] theorem State.fetched_rnd : (s.fetched).rnd = s.rnd := rfl
@[simp] theorem State.fetched_now : (s.fetched).now = s.now := rfl
@[simp] theorem State.fetched_err : (s.fetched).err = .none := rfl
@[simp] theorem State.fetched_oob : (s.fetched).oob = (decide (s.pc.toNat > 0xFFF) || decide (s.pc.toNat + 1 > 0xFFF)) := rfl
@[simp] theorem State.fetched_inputs : (s.fetched).inputs = s.inputs := rfl
@[simp] theorem State.fetched_stepNo : (s.fetched).stepNo = s.stepNo := rfl
@[simp] theorem State.fetched_params : (s.fetched).params = s.params := rfl
@[simp] theorem State.fetched_loadOpen : (s.fetched).loadOpen = s.loadOpen := rfl

/-! ### timerGateAt -/

@[simp] theorem State.timerGateAt_mem (p : Nat) : (s.timerGateAt p).mem = s.mem := rfl
@[simp] theorem State.timerGateAt_V (p : Nat) : (s.timerGateAt p).V = s.V := rfl
@[simp] theorem State.timerGateAt_I (p : Nat) : (s.timerGateAt p).I = s.I := rfl
@[simp] theorem State.timerGateAt_pc (p : Nat) : (s.timerGateAt p).pc = s.pc := rfl
@[simp] theorem State.timerGateAt_stack (p : Nat) : (s.timerGateAt p).stack = s.stack := rfl
@[simp] theorem State.timerGateAt_sp (p : Nat) : (s.timerGateAt p).sp = s.sp := rfl
@[simp] theorem State.timerGateAt_dt (p : Nat) : (s.timerGateAt p).dt = tickTimer (s.gateFires p) s.dt := rfl
@[simp] theorem State.timerGateAt_st (p : Nat) : (s.timerGateAt p).st = tickTimer (s.gateFires p) s.st := rfl
@[simp] theorem State.timerGateAt_fb (p : Nat) : (s.timerGateAt p).fb = s.fb := rfl
@[simp] theorem State.timerGateAt_keys (p : Nat) : (s.timerGateAt p).keys = s.keys := rfl
@[simp] theorem State.timerGateAt_lastTick (p : Nat) : (s.timerGateAt p).lastTick = (if s.gateFires p then s.now else s.lastTick) := rfl
@[simp] theorem State.timerGateAt_rnd (p : Nat) : (s.timerGateAt p).rnd = s.rnd := rfl
@[simp] theorem State.timerGateAt_now (p : Nat) : (s.timerGateAt p).now = s.now := rfl
@[simp] theorem State.timerGateAt_err (p : Nat) : (s.timerGateAt p).err = s.err := rfl
@[simp] theorem State.timerGateAt_oob (p : Nat) : (s.timerGateAt p).oob = s.oob := rfl
@[simp] theorem State.timerGateAt_inputs (p : Nat) : (s.timerGateAt p).inputs = s.inputs := rfl
@[simp] theorem State.timerGateAt_stepNo (p : Nat) : (s.timerGateAt p).stepNo = s.stepNo := rfl
@[simp] theorem State.timerGateAt_params (p : Nat) : (s.timerGateAt p).params = s.params := rfl
@[simp] theorem State.timerGateAt_loadOpen (p : Nat) : (s.timerGateAt p).loadOpen = s.loadOpen := rfl

/-! ### hostTurn -/

@[simp] theorem State.hostTurn_mem : (s.hostTurn).mem = s.mem := rfl
@[simp] theorem State.hostTurn_V : (s.hostTurn).V = s.V := rfl
@[simp] theorem State.hostTurn_I : (s.hostTurn).I = s.I := rfl
@[simp] theorem State.hostTurn_pc : (s.hostTurn).pc = s.pc := rfl
@[simp] theorem State.hostTurn_stack : (s.hostTurn).stack = s.stack := rfl
@[simp] theorem State.hostTurn_sp : (s.hostTurn).sp = s.sp := rfl
@[simp] theorem State.hostTurn_dt : (s.hostTurn).dt = s.dt := rfl
@[simp] theorem State.hostTurn_st : (s.hostTurn).st = s.st := rfl
@[simp] theorem State.hostTurn_fb : (s.hostTurn).fb = s.fb := rfl
@[simp] theorem State.hostTurn_keys : (s.hostTurn).keys = s.nextInput.keys.getD s.keys := rfl
@[simp] theorem State.hostTurn_lastTick : (s.hostTurn).lastTick = s.lastTick := rfl
@[simp] theorem State.hostTurn_rnd : (s.hostTurn).rnd = s.nextInput.rnd := rfl
@[simp] theorem State.hostTurn_now : (s.hostTurn).now = advanceClock s.params.timeBits s.now s.nextInput.elapsed := rfl
@[simp] theorem State.hostTurn_err : (s.hostTurn).err = s.err := rfl
@[simp] theorem State.hostTurn_oob : (s.hostTurn).oob = s.oob := rfl
@[simp] theorem State.hostTurn_inputs : (s.hostTurn).inputs = s.inputs.tail := rfl
@[simp] theorem State.hostTurn_stepNo : (s.hostTurn).stepNo = s.stepNo + 1 := rfl
@[simp] theorem State.hostTurn_params : (s.hostTurn).params = s.params := rfl
@[simp] theorem State.hostTurn_loadOpen : (s.hostTurn).loadOpen = false := rfl

/-! ### writeKeys -/

@[simp] theorem writeKeys_mem (m : Word16) : (writeKeys m s).mem = s.mem := rfl
@[simp] theorem writeKeys_V (m : Word16) : (writeKeys m s).V = s.V := rfl
@[simp] theorem writeKeys_I (m : Word16) : (writeKeys m s).I = s.I := rfl
@[simp] theorem writeKeys_pc (m : Word16) : (writeKeys m s).pc = s.pc := rfl
@[simp] theorem writeKeys_stack (m : Word16) : (writeKeys m s).stack = s.stack := rfl
@[simp] theorem writeKeys_sp (m : Word16) : (writeKeys m s).sp = s.sp := rfl
@[simp] theorem writeKeys_dt (m : Word16) : (writeKeys m s).dt = s.dt := rfl
@[simp] theorem writeKeys_st (m : Word16) : (writeKeys m s).st = s.st := rfl
@[simp] theorem writeKeys_fb (m : Word16) : (writeKeys m s).fb = s.fb := rfl
@[simp] theorem writeKeys_keys (m : Word16) : (writeKeys m s).keys = m := rfl
@[simp] theorem writeKeys_lastTick (m : Word16) : (writeKeys m s).lastTick = s.lastTick := rfl
@[simp] theorem writeKeys_rnd (m : Word16) : (writeKeys m s).rnd = s.rnd := rfl
@[simp] theorem writeKeys_now (m : Word16) : (writeKeys m s).now = s.now := rfl
@[simp] theorem writeKeys_err (m : Word16) : (writeKeys m s).err = s.err := rfl
@[simp] theorem writeKeys_oob (m : Word16) : (writeKeys m s).oob = s.oob := rfl
@[simp] theorem writeKeys_inputs (m : Word16) : (writeKeys m s).inputs = s.inputs := rfl
@[simp] theorem writeKeys_stepNo (m : Word16) : (writeKeys m s).stepNo = s.stepNo := rfl
@[simp] theorem writeKeys_params (m : Word16) : (writeKeys m s).params = s.params := rfl
@[simp] theorem writeKeys_loadOpen (m : Word16) : (writeKeys m s).loadOpen = s.loadOpen := rfl

/-! ### driveInputs -/

@[simp] theorem driveInputs_mem (r : Byte) (d : Nat) : (driveInputs r d s).mem = s.mem := rfl
@[simp] theorem driveInputs_V (r : Byte) (d : Nat) : (driveInputs r d s).V = s.V := rfl
@[simp] theorem driveInputs_I (r : Byte) (d : Nat) : (driveInputs r d s).I = s.I := rfl
@[simp] theorem driveInputs_pc (r : Byte) (d : Nat) : (driveInputs r d s).pc = s.pc := rfl
@[simp] theorem driveInputs_stack (r : Byte) (d : Nat) : (driveInputs r d s).stack = s.stack := rfl
@[simp] theorem driveInputs_sp (r : Byte) (d : Nat) : (driveInputs r d s).sp = s.sp := rfl
@[simp] theorem driveInputs_dt (r : Byte) (d : Nat) : (driveInputs r d s).dt = s.dt := rfl
@[simp] theorem driveInputs_st (r : Byte) (d : Nat) : (driveInputs r d s).st = s.st := rfl
@[simp] theorem driveInputs_fb (r : Byte) (d : Nat) : (driveInputs r d s).fb = s.fb := rfl
@[simp] theorem driveInputs_keys (r : Byte) (d : Nat) : (driveInputs r d s).keys = s.keys := rfl
@[simp] theorem driveInputs_lastTick (r : Byte) (d : Nat) : (driveInputs r d s).lastTick = s.lastTick := rfl
@[simp] theorem driveInputs_rnd (r : Byte) (d : Nat) : (driveInputs r d s).rnd = r := rfl
@[simp] theorem driveInputs_now (r : Byte) (d : Nat) : (driveInputs r d s).now = advanceClock s.params.timeBits s.now d := rfl
@[simp] theorem driveInputs_err (r : Byte) (d : Nat) : (driveInputs r d s).err = s.err := rfl
@[simp] theorem driveInputs_oob (r : Byte) (d : Nat) : (driveInputs r d s).oob = s.oob := rfl
@[simp] theorem driveInputs_inputs (r : Byte) (d : Nat) : (driveInputs r d s).inputs = s.inputs := rfl
@[simp] theorem driveInputs_stepNo (r : Byte) (d : Nat) : (driveInputs r d s).stepNo = s.stepNo := rfl
@[simp] theorem driveInputs_params (r : Byte) (d : Nat) : (driveInputs r d s).params = s.params := rfl
@[simp] theorem driveInputs_loadOpen (r : Byte) (d : Nat) : (driveInputs r d s).loadOpen = s.loadOpen := rfl

/-! ### withInputs -/

@[simp] theorem State.withInputs_mem (l : List HostInput) : (s.withInputs l).mem = s.mem := rfl
@[simp] theorem State.withInputs_V (l : List HostInput) : (s.withInputs l).V = s.V := rfl
@[simp] theorem State.withInputs_I (l : List HostInput) : (s.withInputs l).I = s.I := rfl
@[simp] theorem State.withInputs_pc (l : List HostInput) : (s.withInputs l).pc = s.pc := rfl
@[simp] theorem State.withInputs_stack (l : List HostInput) : (s.withInputs l).stack = s.stack := rfl
@[simp] theorem State.withInputs_sp (l : List HostInput) : (s.withInputs l).sp = s.sp := rfl
@[simp] theorem State.withInputs_dt (l : List HostInput) : (s.withInputs l).dt = s.dt := rfl
@[simp] theorem State.withInputs_st (l : List HostInput) : (s.withInputs l).st = s.st := rfl
@[simp] theorem State.withInputs_fb (l : List HostInput) : (s.withInputs l).fb = s.fb := rfl
@[simp] theorem State.withInputs_keys (l : List HostInput) : (s.withInputs l).keys = s.keys := rfl
@[simp] theorem State.withInputs_lastTick (l : List HostInput) : (s.withInputs l).lastTick = s.lastTick := rfl
@[simp] theorem State.withInputs_rnd (l : List HostInput) : (s.withInputs l).rnd = s.rnd := rfl
@[simp] theorem State.withInputs_now (l : List HostInput) : (s.withInputs l).now = s.now := rfl
@[simp] theorem State.withInputs_err (l : List HostInput) : (s.withInputs l).err = s.err := rfl
@[simp] theorem State.withInputs_oob (l : List HostInput) : (s.withInputs l).oob = s.oob := rfl
@[simp] theorem State.withInputs_inputs (l : List HostInput) : (s.withInputs l).inputs = l := rfl
@[simp] theorem State.withInputs_stepNo (l : List HostInput) : (s.withInputs l).stepNo = s.stepNo := rfl
@[simp] theorem State.withInputs_params (l : List HostInput) : (s.withInputs l).params = s.params := rfl
@[simp] theorem State.withInputs_loadOpen (l : List HostInput) : (s.withInputs l).loadOpen = s.loadOpen := rfl

/-! ### assertReset -/

@[simp] theorem assertReset_mem : (assertReset s).mem = (State.resetWith s.params s.now).mem := rfl
@[simp] theorem assertReset_V : (assertReset s).V = (State.resetWith s.params s.now).V := rfl
@[simp] theorem assertReset_I : (assertReset s).I = (State.resetWith s.params s.now).I := rfl
@[simp] theorem assertReset_pc : (assertReset s).pc = (State.resetWith s.params s.now).pc := rfl
@[simp] theorem assertReset_stack : (assertReset s).stack = (State.resetWith s.params s.now).stack := rfl
@[simp] theorem assertReset_sp : (assertReset s).sp = (State.resetWith s.params s.now).sp := rfl
@[simp] theorem assertReset_dt : (assertReset s).dt = (State.resetWith s.params s.now).dt := rfl
@[simp] theorem assertReset_st : (assertReset s).st = (State.resetWith s.params s.now).st := rfl
@[simp] theorem assertReset_fb : (assertReset s).fb = (State.resetWith s.params s.now).fb := rfl
@[simp] theorem assertReset_keys : (assertReset s).keys = (State.resetWith s.params s.now).keys := rfl
@[simp] theorem assertReset_lastTick : (assertReset s).lastTick = s.now := rfl
@[simp] theorem assertReset_rnd : (assertReset s).rnd = s.rnd := rfl
@[simp] theorem assertReset_now : (assertReset s).now = s.now := rfl
@[simp] theorem assertReset_err : (assertReset s).err = (State.resetWith s.params s.now).err := rfl
@[simp] theorem assertReset_oob : (assertReset s).oob = (State.resetWith s.params s.now).oob := rfl
@[simp] theorem assertReset_inputs : (assertReset s).inputs = s.inputs := rfl
@[simp] theorem assertReset_stepNo : (assertReset s).stepNo = s.stepNo := rfl
@[simp] theorem assertReset_params : (assertReset s).params = s.params := rfl
@[simp] theorem assertReset_loadOpen : (assertReset s).loadOpen = (State.resetWith s.params s.now).loadOpen := rfl

end Sys2Proof.Machine
end

