-- ==== Sys2Proof/Laws/Ops.lean ====
section
/-! SUPPORT. For each shared operation, everything it can do, said once. -/

namespace Sys2Proof.Machine

/-! ### Registers -/

@[simp] theorem State.reg_setReg_self (s : State) (x : RegIdx) (v : Byte) : (s.setReg x v).reg x = v := by
  simp [State.reg]

theorem State.reg_setReg_ne (s : State) {x r : RegIdx} (v : Byte) (h : r ≠ x) : (s.setReg x v).reg r = s.reg r := by
  have h' : x.val ≠ r.val := fun hv => h (Fin.ext hv).symm
  simp [State.reg, Vector.getElem_set_ne, h']

theorem State.reg_setReg (s : State) (x r : RegIdx) (v : Byte) :
    (s.setReg x v).reg r = if r = x then v else s.reg r := by
  by_cases h : r = x
  · subst h; simp
  · simp [h, State.reg_setReg_ne s v h]

/-- The flag write: VF is the flag, the other registers are as before (10_state.md R22). -/
theorem State.reg_setFlag (s : State) (f : Bool) (r : RegIdx) :
    (s.setFlag f).reg r = if r = 15 then flagByte f else s.reg r :=
  State.reg_setReg s Config.flagReg r (flagByte f)

/-- Two states with the same registers read alike. -/
theorem State.reg_congr {s t : State} (h : t.V = s.V) (r : RegIdx) : t.reg r = s.reg r := by
  simp [State.reg, h]

/-! ### Memory -/

/-- Two states of one machine with the same memory read alike. -/
theorem State.peek_congr {s t : State} (h : t.mem = s.mem) (hp : t.params = s.params) (a : Nat) :
    t.peek a = s.peek a := by
  simp [State.peek, h, hp]

/-- A byte read after a store (20_memory.md R66, R67). -/
theorem State.peek_poke (s : State) (a b : Nat) (v : Byte) :
    (s.poke a v).peek b = if reduceAddr b = reduceAddr a then v else s.peek b := by
  simp [State.peek, Memory.read_write]

/-- A store keeps the canonical form. -/
theorem State.wf_poke {s : State} (a : Nat) (v : Byte) (h : Memory.wf s.params.font s.mem = true) :
    Memory.wf s.params.font (s.poke a v).mem = true := by
  simpa using Memory.wf_write _ v (reduceAddr_lt a) h

/-- A store changes memory and the `oob` mark, nothing else. -/
theorem State.poke_frame (s : State) (a : Nat) (v : Byte) :
    s.poke a v = { s with mem := (s.poke a v).mem, oob := (s.poke a v).oob } := rfl

/-- The marks of `n` accesses: the last and highest address decides (20_memory.md R65). -/
theorem State.markOobRange_eq (s : State) (a n : Nat) :
    s.markOobRange a n = { s with oob := s.oob || decide (0 < n ∧ a + n - 1 > 0xFFF) } := by
  induction n with
  | zero => simp [State.markOobRange]
  | succ n ih =>
    rw [State.markOobRange, ih]
    unfold State.markOob
    congr 1
    rw [Bool.or_assoc, ← Bool.decide_or]
    congr 1
    rw [decide_eq_decide]
    omega

/-! ### Block transfers -/

/-- The stores of FX55 change memory and the `oob` mark, nothing else. -/
theorem State.storeBlock_frame (s : State) (n : Nat) (h : n ≤ 16) :
    s.storeBlock n h = { s with mem := (s.storeBlock n h).mem, oob := (s.storeBlock n h).oob } := by
  induction n with
  | zero => rfl
  | succ n ih =>
    rw [State.storeBlock, State.poke_frame, ih (Nat.le_of_succ_le h)]

/-- The loads of FX65 change registers and the `oob` mark, nothing else. -/
theorem State.loadBlock_frame (s : State) (n : Nat) (h : n ≤ 16) :
    s.loadBlock n h = { s with V := (s.loadBlock n h).V, oob := (s.loadBlock n h).oob } := by
  induction n with
  | zero => rfl
  | succ n ih =>
    rw [State.loadBlock, ih (Nat.le_of_succ_le h)]
    rfl

/-- The loads of FX65: a register below the count receives its byte, the others are as before (44_index_memory.md R185). -/
theorem State.reg_loadBlock (s : State) (n : Nat) (h : n ≤ 16) (r : RegIdx) :
    (s.loadBlock n h).reg r = if r.val < n then s.peek (s.dataAddr r.val) else s.reg r := by
  induction n with
  | zero => simp [State.loadBlock]
  | succ n ih =>
    rw [State.loadBlock, State.reg_congr (State.markOob_V _ _), State.reg_setReg, ih (Nat.le_of_succ_le h)]
    by_cases hr : r = ⟨n, h⟩
    · subst hr; simp
    · have hne : r.val ≠ n := fun hv => hr (Fin.ext hv)
      rw [if_neg hr]
      by_cases hlt : r.val < n
      · rw [if_pos hlt, if_pos (by omega)]
      · rw [if_neg hlt, if_neg (by omega)]

/-- The stores of FX55 keep the canonical form. -/
theorem State.wf_storeBlock {s : State} (n : Nat) (h : n ≤ 16) (hs : Memory.wf s.params.font s.mem = true) :
    Memory.wf s.params.font (s.storeBlock n h).mem = true := by
  induction n with
  | zero => exact hs
  | succ n ih =>
    have hp : (s.storeBlock n (Nat.le_of_succ_le h)).params = s.params := by rw [State.storeBlock_frame]
    have hw := ih (Nat.le_of_succ_le h)
    rw [← hp] at hw ⊢
    exact State.wf_poke _ _ hw

/-- The stores of FX55: the byte of a register below the count is that register (44_index_memory.md R184); at most 16 addresses in a
row are all different modulo 4096. -/
theorem State.peek_storeBlock (s : State) (n : Nat) (h : n ≤ 16) (k : RegIdx) (hk : k.val < n) :
    (s.storeBlock n h).peek (s.dataAddr k.val) = s.reg k := by
  induction n with
  | zero => omega
  | succ n ih =>
    rw [State.storeBlock, State.peek_poke]
    by_cases hkn : k.val = n
    · subst hkn; simp
    · rw [if_neg, ih _ (by omega)]
      simp only [reduceAddr, State.dataAddr, Config.memSize]
      omega

/-- The stores of FX55 leave every other byte alone (20_memory.md R67). -/
theorem State.peek_storeBlock_other (s : State) (n : Nat) (h : n ≤ 16) (a : Nat)
    (ha : ∀ k, k < n → reduceAddr (s.dataAddr k) ≠ reduceAddr a) : (s.storeBlock n h).peek a = s.peek a := by
  induction n with
  | zero => rfl
  | succ n ih =>
    rw [State.storeBlock, State.peek_poke, if_neg (fun e => ha n (by omega) e.symm),
      ih _ (fun k hk => ha k (by omega))]

/-- The marks of FX55: the last address decides (20_memory.md R65). -/
theorem State.storeBlock_oob (s : State) (n : Nat) (h : n ≤ 16) :
    (s.storeBlock n h).oob = (s.oob || decide (0 < n ∧ s.dataAddr (n - 1) > 0xFFF)) := by
  induction n with
  | zero => simp [State.storeBlock]
  | succ n ih =>
    rw [State.storeBlock, State.poke_oob, ih, Bool.or_assoc, ← Bool.decide_or]
    congr 1
    rw [decide_eq_decide]
    simp only [State.dataAddr]
    omega

/-- The marks of FX65: the last address decides (20_memory.md R65). -/
theorem State.loadBlock_oob (s : State) (n : Nat) (h : n ≤ 16) :
    (s.loadBlock n h).oob = (s.oob || decide (0 < n ∧ s.dataAddr (n - 1) > 0xFFF)) := by
  induction n with
  | zero => simp [State.loadBlock]
  | succ n ih =>
    rw [State.loadBlock, State.markOob_oob, State.setReg_oob, ih, Bool.or_assoc, ← Bool.decide_or]
    congr 1
    rw [decide_eq_decide]
    simp only [State.dataAddr]
    omega

/-! ### Keys -/

/-- The lowest key down of a mask that is not 0 (46_keys_timers.md R203 (c)). -/
theorem lowestKey_spec (m : Word16) (h : m ≠ 0#16) :
    lowestKey m < 16 ∧ m.getLsbD (lowestKey m) = true ∧ ∀ k, k < lowestKey m → m.getLsbD k = false := by
  have hex : ∃ k, k < 16 ∧ m.getLsbD k = true := by
    by_contra hc
    push Not at hc
    apply h
    apply BitVec.eq_of_getLsbD_eq
    intro i hi
    simpa using hc i hi
  obtain ⟨k, hk, hb⟩ := hex
  unfold lowestKey
  cases hf : (List.range 16).find? (fun k => m.getLsbD k) with
  | none =>
    simp at hf
    rw [hf k hk] at hb
    cases hb
  | some j =>
    rw [List.find?_range_eq_some] at hf
    simp at hf ⊢
    exact ⟨hf.2.1, hf.1, fun k hk => hf.2.2 k hk⟩

/-- KEY_PICK of a mask that is not 0 is a key that is down (46_keys_timers.md R203). -/
theorem keyPick_down (picks : List (Word16 × Fin 16)) (m : Word16) (h : m ≠ 0#16) :
    keyPick picks m < 16 ∧ m.getLsbD (keyPick picks m) = true := by
  unfold keyPick
  split
  · rename_i e he
    have := List.find?_some he
    simp only [Bool.and_eq_true] at this
    exact ⟨e.2.isLt, this.2⟩
  · exact ⟨(lowestKey_spec m h).1, (lowestKey_spec m h).2.1⟩

/-- Without picks of its own, KEY_PICK is the lowest key down (46_keys_timers.md R203 (c), D11). -/
@[simp] theorem keyPick_nil (m : Word16) : keyPick [] m = lowestKey m := rfl

/-- The parameter `KEY_PICK` takes every value the spec allows it: "function from a non-zero 16-bit mask to a set bit's index"
(00_scope.md R8). -/
theorem keyPick_any (f : Word16 → Fin 16) (hf : ∀ m, m ≠ 0#16 → m.getLsbD (f m).val = true) :
    ∃ picks, ∀ m, m ≠ 0#16 → keyPick picks m = (f m).val := by
  refine ⟨List.ofFn (fun i : Fin (2 ^ 16) => (BitVec.ofFin i, f (BitVec.ofFin i))), fun m hm => ?_⟩
  unfold keyPick
  split
  · rename_i e he
    have h1 := List.find?_some he
    have h2 := List.mem_of_find?_eq_some he
    rw [List.mem_ofFn] at h2
    obtain ⟨i, rfl⟩ := h2
    simp only [Bool.and_eq_true, beq_iff_eq] at h1
    rw [h1.1]
  · rename_i he
    rw [List.find?_eq_none] at he
    have := he (m, f m) ((List.mem_ofFn).2 ⟨m.toFin, rfl⟩)
    simp [hf m hm] at this

/-! ### The program load -/

/-- A byte through the load port (20_memory.md R67, R76). -/
theorem peek_loadByte (s : State) (a : Addr12) (b : Byte) (h : s.loadOpen = true ∧ Config.progBase ≤ a.toNat) (c : Nat) :
    (loadByte a b s h).peek c = if reduceAddr c = a.toNat then b else s.peek c := by
  simp [loadByte, State.peek, Memory.read_write]

/-- The load port keeps the canonical form. -/
theorem wf_loadByte {s : State} (a : Addr12) (b : Byte) (h : s.loadOpen = true ∧ Config.progBase ≤ a.toNat)
    (hw : Memory.wf s.params.font s.mem = true) : Memory.wf s.params.font (loadByte a b s h).mem = true :=
  Memory.wf_write _ b a.isLt hw

/-- A load of several bytes changes memory only. -/
theorem loadBytes_frame (s : State) (a : Nat) (l : List Byte)
    (h : s.loadOpen = true ∧ Config.progBase ≤ a ∧ a + l.length ≤ Config.memSize) :
    loadBytes a l s h = { s with mem := (loadBytes a l s h).mem } := by
  induction l generalizing a s with
  | nil => rfl
  | cons b l ih => exact ih (loadByte (BitVec.ofNat 12 a) b s _) (a + 1) _

/-- A load of several bytes keeps the canonical form. -/
theorem wf_loadBytes {s : State} (a : Nat) (l : List Byte)
    (h : s.loadOpen = true ∧ Config.progBase ≤ a ∧ a + l.length ≤ Config.memSize)
    (hw : Memory.wf s.params.font s.mem = true) : Memory.wf s.params.font (loadBytes a l s h).mem = true := by
  induction l generalizing a s with
  | nil => exact hw
  | cons b l ih => exact ih (s := loadByte (BitVec.ofNat 12 a) b s _) _ _ (wf_loadByte _ _ _ hw)

/-- A load of several bytes writes from its first address on, and nowhere below. -/
theorem peek_loadBytes_below {s : State} (a : Nat) (l : List Byte)
    (h : s.loadOpen = true ∧ Config.progBase ≤ a ∧ a + l.length ≤ Config.memSize) (c : Nat) (hc : reduceAddr c < a) :
    (loadBytes a l s h).peek c = s.peek c := by
  induction l generalizing a s with
  | nil => rfl
  | cons b l ih =>
    have hl : a + (l.length + 1) ≤ 4096 := h.2.2
    rw [loadBytes, ih _ _ (Nat.lt_succ_of_lt hc), peek_loadByte, if_neg]
    rw [BitVec.toNat_ofNat, Nat.mod_eq_of_lt (by omega)]
    exact Nat.ne_of_lt hc

/-- What a load that succeeds does, said once: the bytes stand from 0x200 on, nothing else changes, the load is closed
(70_reset_and_hazards.md R243, R251). -/
theorem loadProgram_ok {source : Option (List Byte)} {s t : State} {h : s.loadOpen = true}
    (ht : loadProgram source s h = .ok t) :
    ∃ image, source = some image ∧ ∃ h', t = { loadBytes Config.progBase image s h' with loadOpen := false } := by
  cases source with
  | none => cases ht
  | some image =>
    simp only [loadProgram] at ht
    split at ht
    · exact ⟨image, rfl, _, (Except.ok.inj ht).symm⟩
    · cases ht

/-! ### The phases common to every step -/

/-- A timer at the gate falls by at most 1 and never below 0 (10_state.md R26, R27). -/
theorem tickTimer_cases (f : Bool) (t : Byte) :
    (tickTimer f t = t ∧ (f = false ∨ t = 0#8)) ∨
      (f = true ∧ t ≠ 0#8 ∧ (tickTimer f t).toNat + 1 = t.toNat) := by
  unfold tickTimer
  by_cases h : t = 0#8
  · left; simp [h]
  · cases f
    · left; simp [h]
    · right
      have : t.toNat ≠ 0 := fun h0 => h (BitVec.eq_of_toNat_eq h0)
      rw [if_neg h, if_pos rfl]
      refine ⟨rfl, h, ?_⟩
      have := t.isLt
      rw [BitVec.toNat_sub]
      simp only [BitVec.toNat_ofNat]
      omega

/-- A timer after the gate as a number (40_step_cycle.md R125). -/
theorem toNat_tickTimer (f : Bool) (t : Byte) :
    (tickTimer f t).toNat = if f = true then t.toNat - 1 else t.toNat := by
  rcases tickTimer_cases f t with ⟨h, h' | h'⟩ | ⟨h1, _, h⟩
  · rw [h, h']; rfl
  · rw [h, h']; simp
  · rw [if_pos h1]; omega

/-- The host's clock does not go back, and it keeps to its width (10_state.md R31). -/
theorem advanceClock_spec {bits : Nat} {now : Nat} (d : Nat) (h : now < 2 ^ bits) :
    now ≤ advanceClock bits now d ∧ advanceClock bits now d < 2 ^ bits := by
  unfold advanceClock
  omega

/-- Every reading from the last one up to the end of the width can be the next (70_reset_and_hazards.md R251). -/
theorem advanceClock_reaches {bits now n : Nat} (h : now ≤ n) (hw : n < 2 ^ bits) : advanceClock bits now (n - now) = n := by
  unfold advanceClock
  omega

/-- Between clock readings that fit the width, the gate's difference is the time passed (40_step_cycle.md R125). -/
theorem State.gateFires_eq {s : State} (period : Nat) (h : s.lastTick ≤ s.now) (hw : s.now < 2 ^ s.params.timeBits) :
    s.gateFires period = decide (s.lastTick + period ≤ s.now) := by
  unfold State.gateFires
  rw [decide_eq_decide, Nat.mod_eq_of_lt (lt_of_le_of_lt h hw),
    show s.now + (2 ^ s.params.timeBits - s.lastTick) = (s.now - s.lastTick) + 2 ^ s.params.timeBits by omega,
    Nat.add_mod_right, Nat.mod_eq_of_lt (by omega)]
  omega

/-- The fetch moves `pc`, clears the outputs of the step before and marks the step; nothing else (40_step_cycle.md R122). -/
theorem State.fetched_eq (s : State) :
    s.fetched = { s with pc := s.pc + 2#16, err := .none, oob := decide (0xFFF < s.pc.toNat + 1) } := by
  unfold State.fetched
  congr 1
  rw [← Bool.decide_or, decide_eq_decide]
  omega

/-- After the gate, `last_tick` is the old one or `now` (40_step_cycle.md R125). -/
theorem State.timerGate_lastTick_cases (s : State) :
    s.timerGate.lastTick = s.lastTick ∨ s.timerGate.lastTick = s.now := by
  unfold State.timerGate
  rw [State.timerGateAt_lastTick]
  split
  · exact .inr rfl
  · exact .inl rfl

end Sys2Proof.Machine
end

