-- ==== Sys2Proof/Laws/PerInstr.lean ====
section
/-! SUPPORT. Statements about every instruction, one lemma per constructor: the word of a well-formed instruction decodes to
it (30_encoding.md R91, R93, R94, R96). -/

namespace Sys2Proof.Laws.RoundTrip

/-- The word of a well-formed instruction decodes to that instruction, every operand as it was. -/
def Statement (i : Sys2Proof.Instr) : Prop := i.wf = true → Sys2Proof.decodeWord (Sys2Proof.encodeWord i) = i

theorem cls : Statement .cls := by
  intro _; decide

theorem ret : Statement .ret := by
  intro _; decide

theorem sys (nnn : Sys2Proof.Addr12) : Statement (.sys nnn) := by
  intro h
  have h1 : nnn ≠ 0x0E0#12 := by rintro rfl; exact absurd h (by decide)
  have h2 : nnn ≠ 0x0EE#12 := by rintro rfl; exact absurd h (by decide)
  have e1 : Sys2Proof.wordNNN 0x0#4 nnn ≠ 0x00E0#16 := fun e => h1 ((Sys2Proof.wordNNN_eq_iff 0x0#4 nnn 0x0E0#12).1 e)
  have e2 : Sys2Proof.wordNNN 0x0#4 nnn ≠ 0x00EE#16 := fun e => h2 ((Sys2Proof.wordNNN_eq_iff 0x0#4 nnn 0x0EE#12).1 e)
  simp [Sys2Proof.encodeWord, Sys2Proof.decodeWord, Sys2Proof.decode0, e1, e2]

theorem jp (nnn : Sys2Proof.Addr12) : Statement (.jp nnn) := by
  intro _
  simp [Sys2Proof.encodeWord, Sys2Proof.decodeWord]

theorem call (nnn : Sys2Proof.Addr12) : Statement (.call nnn) := by
  intro _
  simp [Sys2Proof.encodeWord, Sys2Proof.decodeWord]

theorem seImm (x : Sys2Proof.RegIdx) (nn : Sys2Proof.Byte) : Statement (.seImm x nn) := by
  intro _
  simp [Sys2Proof.encodeWord, Sys2Proof.decodeWord]

theorem sneImm (x : Sys2Proof.RegIdx) (nn : Sys2Proof.Byte) : Statement (.sneImm x nn) := by
  intro _
  simp [Sys2Proof.encodeWord, Sys2Proof.decodeWord]

theorem seReg (x y : Sys2Proof.RegIdx) : Statement (.seReg x y) := by
  intro _
  simp [Sys2Proof.encodeWord, Sys2Proof.decodeWord, Sys2Proof.decode5]

theorem unassigned5 (x y : Sys2Proof.RegIdx) (n : Sys2Proof.Nibble) : Statement (.unassigned5 x y n) := by
  intro h
  simp [Sys2Proof.Instr.wf] at h
  simp [Sys2Proof.encodeWord, Sys2Proof.decodeWord, Sys2Proof.decode5, h]

theorem ldImm (x : Sys2Proof.RegIdx) (nn : Sys2Proof.Byte) : Statement (.ldImm x nn) := by
  intro _
  simp [Sys2Proof.encodeWord, Sys2Proof.decodeWord]

theorem addImm (x : Sys2Proof.RegIdx) (nn : Sys2Proof.Byte) : Statement (.addImm x nn) := by
  intro _
  simp [Sys2Proof.encodeWord, Sys2Proof.decodeWord]

theorem ldReg (x y : Sys2Proof.RegIdx) : Statement (.ldReg x y) := by
  intro _
  simp [Sys2Proof.encodeWord, Sys2Proof.decodeWord, Sys2Proof.decode8]

theorem orReg (x y : Sys2Proof.RegIdx) : Statement (.orReg x y) := by
  intro _
  simp [Sys2Proof.encodeWord, Sys2Proof.decodeWord, Sys2Proof.decode8]

theorem andReg (x y : Sys2Proof.RegIdx) : Statement (.andReg x y) := by
  intro _
  simp [Sys2Proof.encodeWord, Sys2Proof.decodeWord, Sys2Proof.decode8]

theorem xorReg (x y : Sys2Proof.RegIdx) : Statement (.xorReg x y) := by
  intro _
  simp [Sys2Proof.encodeWord, Sys2Proof.decodeWord, Sys2Proof.decode8]

theorem addReg (x y : Sys2Proof.RegIdx) : Statement (.addReg x y) := by
  intro _
  simp [Sys2Proof.encodeWord, Sys2Proof.decodeWord, Sys2Proof.decode8]

theorem subReg (x y : Sys2Proof.RegIdx) : Statement (.subReg x y) := by
  intro _
  simp [Sys2Proof.encodeWord, Sys2Proof.decodeWord, Sys2Proof.decode8]

theorem shr (x y : Sys2Proof.RegIdx) : Statement (.shr x y) := by
  intro _
  simp [Sys2Proof.encodeWord, Sys2Proof.decodeWord, Sys2Proof.decode8]

theorem subnReg (x y : Sys2Proof.RegIdx) : Statement (.subnReg x y) := by
  intro _
  simp [Sys2Proof.encodeWord, Sys2Proof.decodeWord, Sys2Proof.decode8]

theorem shl (x y : Sys2Proof.RegIdx) : Statement (.shl x y) := by
  intro _
  simp [Sys2Proof.encodeWord, Sys2Proof.decodeWord, Sys2Proof.decode8]

theorem unassigned8 (x y : Sys2Proof.RegIdx) (n : Sys2Proof.Nibble) : Statement (.unassigned8 x y n) := by
  intro h
  simp [Sys2Proof.Instr.wf, Sys2Proof.assigned8] at h
  simp [Sys2Proof.encodeWord, Sys2Proof.decodeWord, Sys2Proof.decode8, h]

theorem sneReg (x y : Sys2Proof.RegIdx) : Statement (.sneReg x y) := by
  intro _
  simp [Sys2Proof.encodeWord, Sys2Proof.decodeWord, Sys2Proof.decode9]

theorem unassigned9 (x y : Sys2Proof.RegIdx) (n : Sys2Proof.Nibble) : Statement (.unassigned9 x y n) := by
  intro h
  simp [Sys2Proof.Instr.wf] at h
  simp [Sys2Proof.encodeWord, Sys2Proof.decodeWord, Sys2Proof.decode9, h]

theorem ldI (nnn : Sys2Proof.Addr12) : Statement (.ldI nnn) := by
  intro _
  simp [Sys2Proof.encodeWord, Sys2Proof.decodeWord]

theorem jpV0 (nnn : Sys2Proof.Addr12) : Statement (.jpV0 nnn) := by
  intro _
  simp [Sys2Proof.encodeWord, Sys2Proof.decodeWord]

theorem rnd (x : Sys2Proof.RegIdx) (nn : Sys2Proof.Byte) : Statement (.rnd x nn) := by
  intro _
  simp [Sys2Proof.encodeWord, Sys2Proof.decodeWord]

theorem drw (x y : Sys2Proof.RegIdx) (n : Sys2Proof.Nibble) : Statement (.drw x y n) := by
  intro _
  simp [Sys2Proof.encodeWord, Sys2Proof.decodeWord]

theorem skp (x : Sys2Proof.RegIdx) : Statement (.skp x) := by
  intro _
  simp [Sys2Proof.encodeWord, Sys2Proof.decodeWord, Sys2Proof.decodeE]

theorem sknp (x : Sys2Proof.RegIdx) : Statement (.sknp x) := by
  intro _
  simp [Sys2Proof.encodeWord, Sys2Proof.decodeWord, Sys2Proof.decodeE]

theorem unassignedE (x : Sys2Proof.RegIdx) (nn : Sys2Proof.Byte) : Statement (.unassignedE x nn) := by
  intro h
  simp [Sys2Proof.Instr.wf, Sys2Proof.assignedE] at h
  simp [Sys2Proof.encodeWord, Sys2Proof.decodeWord, Sys2Proof.decodeE, h]

theorem ldVxDt (x : Sys2Proof.RegIdx) : Statement (.ldVxDt x) := by
  intro _
  simp [Sys2Proof.encodeWord, Sys2Proof.decodeWord, Sys2Proof.decodeF]

theorem ldVxK (x : Sys2Proof.RegIdx) : Statement (.ldVxK x) := by
  intro _
  simp [Sys2Proof.encodeWord, Sys2Proof.decodeWord, Sys2Proof.decodeF]

theorem ldDtVx (x : Sys2Proof.RegIdx) : Statement (.ldDtVx x) := by
  intro _
  simp [Sys2Proof.encodeWord, Sys2Proof.decodeWord, Sys2Proof.decodeF]

theorem ldStVx (x : Sys2Proof.RegIdx) : Statement (.ldStVx x) := by
  intro _
  simp [Sys2Proof.encodeWord, Sys2Proof.decodeWord, Sys2Proof.decodeF]

theorem addI (x : Sys2Proof.RegIdx) : Statement (.addI x) := by
  intro _
  simp [Sys2Proof.encodeWord, Sys2Proof.decodeWord, Sys2Proof.decodeF]

theorem ldF (x : Sys2Proof.RegIdx) : Statement (.ldF x) := by
  intro _
  simp [Sys2Proof.encodeWord, Sys2Proof.decodeWord, Sys2Proof.decodeF]

theorem ldB (x : Sys2Proof.RegIdx) : Statement (.ldB x) := by
  intro _
  simp [Sys2Proof.encodeWord, Sys2Proof.decodeWord, Sys2Proof.decodeF]

theorem storeRegs (x : Sys2Proof.RegIdx) : Statement (.storeRegs x) := by
  intro _
  simp [Sys2Proof.encodeWord, Sys2Proof.decodeWord, Sys2Proof.decodeF]

theorem loadRegs (x : Sys2Proof.RegIdx) : Statement (.loadRegs x) := by
  intro _
  simp [Sys2Proof.encodeWord, Sys2Proof.decodeWord, Sys2Proof.decodeF]

theorem unassignedF (x : Sys2Proof.RegIdx) (nn : Sys2Proof.Byte) : Statement (.unassignedF x nn) := by
  intro h
  simp [Sys2Proof.Instr.wf, Sys2Proof.assignedF] at h
  simp [Sys2Proof.encodeWord, Sys2Proof.decodeWord, Sys2Proof.decodeF, h]

end Sys2Proof.Laws.RoundTrip
end

