-- ==== Sys2Proof/Laws/Step.lean ====
section
/-! SUPPORT. What a step is in terms of EXECUTE, and conversely what EXECUTE did when a step answered. -/

namespace Sys2Proof.Machine

/-- The step of a state whose EXECUTE phase answers `t` (40_step_cycle.md R120). -/
theorem step_of_exec {s t : State} (h : exec (decodeWord s.fetchWord) s.fetched = .next t) :
    step s = .next t.finish := by
  rw [step, h]

/-- A step that answers comes from an EXECUTE phase that answers (40_step_cycle.md R120). -/
theorem exec_of_step {s t' : State} (h : step s = .next t') :
    ∃ t, exec (decodeWord s.fetchWord) s.fetched = .next t ∧ t' = t.finish := by
  unfold step at h
  split at h
  · exact ⟨_, ‹_›, (Host.Outcome.next.inj h).symm⟩
  · cases h
  · cases h

/-- What stands at `pc` decodes, as bytes, to what the fetched word decodes to (30_encoding.md R90). -/
theorem decode_at_pc (s : State) :
    decode [s.peek s.pc.toNat, s.peek (s.pc.toNat + 1)] = .ok (decodeWord s.fetchWord, []) := rfl

/-- What TIMER and the host's turn leave alone (40_step_cycle.md R125; 70_reset_and_hazards.md R251). -/
theorem State.finish_frame (s : State) :
    s.finish =
      { s with
        dt := s.finish.dt, st := s.finish.st, lastTick := s.finish.lastTick, keys := s.finish.keys
        rnd := s.finish.rnd, now := s.finish.now, inputs := s.finish.inputs, stepNo := s.stepNo + 1
        loadOpen := false } := rfl

/-- After a step `last_tick` is not later than the clock, and the clock fits its width, if both were so before
(10_state.md R31). -/
theorem State.finish_clock {s : State} (h : s.lastTick ≤ s.now) (hw : s.now < 2 ^ s.params.timeBits) :
    s.finish.lastTick ≤ s.finish.now ∧ s.finish.now < 2 ^ s.params.timeBits := by
  have hle := advanceClock_spec s.timerGate.nextInput.elapsed hw
  have hl : s.finish.lastTick = s.timerGate.lastTick := rfl
  have hn : s.finish.now = advanceClock s.params.timeBits s.now s.timerGate.nextInput.elapsed := rfl
  rw [hl, hn]
  refine ⟨?_, hle.2⟩
  rcases s.timerGate_lastTick_cases with h' | h' <;> rw [h'] <;> omega

/-- A good state's clock is as the host's protocol gives it. -/
theorem State.clockOk_of_good {s : State} (h : s.Good) : s.ClockOk := ⟨h.clock, h.width⟩

/-! ### DXYN -/

/-- The sprite's bit at a pixel, as the blit counts columns and rows (45_display.md R191). -/
theorem spriteCover_eq_rowsBit (s : State) (x y : RegIdx) (n : Nibble) (px : Fin 64) (py : Fin 32) :
    spriteCover s x y n px py =
      rowsBit (fun r => s.peek (s.dataAddr r)) (s.reg x).toNat (s.reg y).toNat n.toNat px py := by
  have h1 : (px.val + 256 - (s.reg x).toNat) % 64 = (px.val + 64 - (s.reg x).toNat % 64) % 64 := by
    have := (s.reg x).isLt
    omega
  have h2 : (py.val + 256 - (s.reg y).toNat) % 32 = (py.val + 32 - (s.reg y).toNat % 32) % 32 := by
    have := (s.reg y).isLt
    omega
  simp only [spriteCover, rowsBit, h1, h2, spriteBit, State.dataAddr]

end Sys2Proof.Machine
end

