-- ==== Sys2Proof/Tests/Slice0.lean ====
section
/-! SUPPORT. Small tests: the checks of WellFormed, one word written out for every constructor, one step or EXECUTE phase per
instruction with the result of spec/95_test_vectors.md (the vector named in the comment), and for every statement with hypotheses a
state and operands that meet them. -/

namespace Sys2Proof.Tests

open Sys2Proof.Machine

/-! ### WellFormed refuses what no word encodes (30_encoding.md R95, R96) -/

theorem test_wf_refuses_sys_00E0 : Instr.wf (.sys 0x0E0#12) = false := by decide
theorem test_wf_refuses_sys_00EE : Instr.wf (.sys 0x0EE#12) = false := by decide
theorem test_wf_refuses_5XY0_as_unassigned : Instr.wf (.unassigned5 1 2 0#4) = false := by decide
theorem test_wf_refuses_8XYE_as_unassigned : Instr.wf (.unassigned8 1 2 0xE#4) = false := by decide
theorem test_wf_refuses_9XY0_as_unassigned : Instr.wf (.unassigned9 1 2 0#4) = false := by decide
theorem test_wf_refuses_EXA1_as_unassigned : Instr.wf (.unassignedE 1 0xA1#8) = false := by decide
theorem test_wf_refuses_FX65_as_unassigned : Instr.wf (.unassignedF 1 0x65#8) = false := by decide
theorem test_wf_takes_neighbours : Instr.wf (.sys 0x0E1#12) = true ∧ Instr.wf (.unassigned8 1 2 0xF#4) = true := by
  decide

/-! ### Decoding: words written out from the patterns of 30_encoding.md R94 and R96 -/

theorem test_decode_flow :
    decodeWord 0x00E0#16 = .cls ∧ decodeWord 0x00EE#16 = .ret ∧ decodeWord 0x0123#16 = .sys 0x123#12 ∧
    decodeWord 0x1234#16 = .jp 0x234#12 ∧ decodeWord 0x2345#16 = .call 0x345#12 ∧
    decodeWord 0xB1FF#16 = .jpV0 0x1FF#12 := by decide

/-- T23 and T24: a low byte of E0 or EE is not enough. -/
theorem test_decode_near_cls_and_ret :
    decodeWord 0x01E0#16 = .sys 0x1E0#12 ∧ decodeWord 0x0FEE#16 = .sys 0xFEE#12 := by decide

theorem test_decode_skip :
    decodeWord 0x3456#16 = .seImm 4 0x56#8 ∧ decodeWord 0x4208#16 = .sneImm 2 0x08#8 ∧
    decodeWord 0x5010#16 = .seReg 0 1 ∧ decodeWord 0x9AB0#16 = .sneReg 10 11 := by decide

theorem test_decode_alu_immediate :
    decodeWord 0x6A2F#16 = .ldImm 10 0x2F#8 ∧ decodeWord 0x730A#16 = .addImm 3 0x0A#8 ∧
    decodeWord 0xC00F#16 = .rnd 0 0x0F#8 := by decide

theorem test_decode_alu_registers :
    decodeWord 0x8010#16 = .ldReg 0 1 ∧ decodeWord 0x8011#16 = .orReg 0 1 ∧ decodeWord 0x8012#16 = .andReg 0 1 ∧
    decodeWord 0x8013#16 = .xorReg 0 1 ∧ decodeWord 0x8014#16 = .addReg 0 1 ∧ decodeWord 0x8015#16 = .subReg 0 1 ∧
    decodeWord 0x8236#16 = .shr 2 3 ∧ decodeWord 0x8017#16 = .subnReg 0 1 ∧ decodeWord 0x823E#16 = .shl 2 3 := by
  decide

theorem test_decode_index_memory :
    decodeWord 0xA300#16 = .ldI 0x300#12 ∧ decodeWord 0xF51E#16 = .addI 5 ∧ decodeWord 0xF429#16 = .ldF 4 ∧
    decodeWord 0xF233#16 = .ldB 2 ∧ decodeWord 0xF255#16 = .storeRegs 2 ∧ decodeWord 0xF265#16 = .loadRegs 2 := by
  decide

theorem test_decode_display : decodeWord 0xD125#16 = .drw 1 2 5#4 := by decide

theorem test_decode_keys_timers :
    decodeWord 0xE39E#16 = .skp 3 ∧ decodeWord 0xE3A1#16 = .sknp 3 ∧ decodeWord 0xF507#16 = .ldVxDt 5 ∧
    decodeWord 0xF10A#16 = .ldVxK 1 ∧ decodeWord 0xF015#16 = .ldDtVx 0 ∧ decodeWord 0xF718#16 = .ldStVx 7 := by
  decide

theorem test_decode_unassigned :
    decodeWord 0x5121#16 = .unassigned5 1 2 1#4 ∧ decodeWord 0x8128#16 = .unassigned8 1 2 8#4 ∧
    decodeWord 0x9015#16 = .unassigned9 0 1 5#4 ∧ decodeWord 0xE39F#16 = .unassignedE 3 0x9F#8 ∧
    decodeWord 0xF1FF#16 = .unassignedF 1 0xFF#8 := by decide

theorem test_decode_bytes_big_endian : decode [0x12#8, 0x34#8, 0x56#8] = .ok (.jp 0x234#12, [0x56#8]) := by rfl
theorem test_decode_refuses_one_byte : decode [0x12#8] = .error .oneByteOnly := by rfl
theorem test_decode_refuses_no_byte : decode [] = .error .noByte := by rfl
theorem test_decodeTableWord : decodeTableWord 16 0xF255 = some (.storeRegs 2) := by decide

/-! ### Steps: the instruction stands at 0x0200 of the state after reset, changed where the vector says -/

/-- The state a step answers. -/
def stepped (s : State) : State :=
  match step s with
  | .next t => t
  | .refused _ => s

/-- One step of the word `w`, placed where `s` fetches. -/
def ran (w : Nat) (s : State) : State := stepped (s.withFetchWord 16 w)

/-- The state after reset with two registers set. -/
def with2 (x : RegIdx) (v : Byte) (y : RegIdx) (w : Byte) : State := (State.reset.setReg x v).setReg y w

/-- T2: a fetch at an odd address. -/
theorem test_fetch_odd : (ran 0x3456 ((State.reset.setPc 0x0201#16).setReg 4 0x56#8)).pc = 0x0205#16 := by decide

/-- T3: the byte after 0xFFF is 0x000, and `oob` is marked. -/
theorem test_fetch_across_top :
    (ran 0x60F0 (State.reset.setPc 0x0FFF#16)).V[0] = 0xF0#8 ∧ (ran 0x60F0 (State.reset.setPc 0x0FFF#16)).pc = 0x1001#16 ∧
    (ran 0x60F0 (State.reset.setPc 0x0FFF#16)).oob = true := by decide

/-- T4: `pc` wraps at 2^16. -/
theorem test_pc_wraps : (ran 0x00E0 (State.reset.setPc 0xFFFE#16)).pc = 0x0000#16 := by decide

/-- T6 and T5, `TICK_PERIOD` = 10. -/
theorem test_gate_fires :
    ({ State.reset with dt := 5#8, lastTick := 100, now := 110 } : State).timerGateAt 10 =
      { State.reset with dt := 4#8, lastTick := 110, now := 110 } ∧
    (({ State.reset with dt := 5#8, lastTick := 100, now := 109 } : State).timerGateAt 10).dt = 5#8 := by decide

/-- T7 and T8: one tick however late; `last_tick` moves also with both timers at 0. -/
theorem test_gate_once :
    (({ State.reset with dt := 1#8, st := 3#8, lastTick := 100, now := 1000 } : State).timerGateAt 10).st = 2#8 ∧
    (({ State.reset with lastTick := 100, now := 500 } : State).timerGateAt 10).lastTick = 500 := by decide

/-! ### Other parameters (00_scope.md R8) -/

/-- A machine with values of its own for every open parameter: `TICK_PERIOD` 10, an 8-bit clock. -/
def other : State :=
  State.resetWith
    { font := Vector.replicate 80 0xAA#8, timeBits := 8, tickPeriodPred := some 9, picks := [(0x0120#16, 8)] } 100

/-- `FONT` is what reset installs (10_state.md R38). -/
theorem test_parameter_font : (ran 0xF065 other).V[0] = 0xAA#8 ∧ other.peek 0x050 = 0x00#8 := by decide

/-- `KEY_PICK`: key 8 of the mask 0x0120; the lowest for a mask it does not name (46_keys_timers.md R203). -/
theorem test_parameter_key_pick :
    (ran 0xF10A { other with keys := 0x0120#16 }).V[1] = 8#8 ∧ (ran 0xF10A { other with keys := 0x0A00#16 }).V[1] = 9#8 := by
  decide

/-- T5 and T6 as whole steps, `TICK_PERIOD` = 10. -/
theorem test_parameter_tick_period :
    (ran 0x00E0 { other with dt := 5#8, now := 109 }).dt = 5#8 ∧ (ran 0x00E0 { other with dt := 5#8, now := 110 }).dt = 4#8 := by
  decide

/-- An 8-bit clock does not wrap (10_state.md R31). -/
theorem test_parameter_time_bits : (ran 0x00E0 (other.withInputs [⟨0#8, 300, none⟩])).now = 255 := by decide

/-! ### One step each -/

/-- T20. -/
theorem test_ret :
    (ran 0x00EE { State.reset with sp := 2, stack := (State.reset.stack.set 0 0x0206#16).set 1 0x0300#16 }).pc = 0x0300#16 ∧
    (ran 0x00EE { State.reset with sp := 2, stack := (State.reset.stack.set 0 0x0206#16).set 1 0x0300#16 }).sp = 1 := by
  decide

/-- T21 (S6). -/
theorem test_ret_empty :
    (ran 0x00EE State.reset).pc = 0x0202#16 ∧ (ran 0x00EE State.reset).err.code = 2#2 := by decide

/-- T22. -/
theorem test_sys : (ran 0x0000 (State.reset.setPc 0x0250#16)).pc = 0x0000#16 := by decide

/-- T25. -/
theorem test_jp : (ran 0x1FFF State.reset).pc = 0x0FFF#16 := by decide

/-- T27. -/
theorem test_call :
    (ran 0x2500 { State.reset with sp := 15, pc := 0x0400#16 }).stack[15] = 0x0402#16 ∧
    (ran 0x2500 { State.reset with sp := 15, pc := 0x0400#16 }).pc = 0x0500#16 := by decide

/-- T28. -/
theorem test_call_full :
    (ran 0x2500 { State.reset with sp := 16, pc := 0x0400#16 }).pc = 0x0402#16 ∧
    (ran 0x2500 { State.reset with sp := 16, pc := 0x0400#16 }).err.code = 1#2 := by decide

/-- T31: not reduced when stored. -/
theorem test_jpV0 : (ran 0xBFFF (State.reset.setReg 0 0xFF#8)).pc = 0x10FE#16 := by decide

/-- T40, T41. -/
theorem test_seImm :
    (ran 0x3100 State.reset).pc = 0x0204#16 ∧ (ran 0x3100 (State.reset.setReg 1 1#8)).pc = 0x0202#16 := by decide

/-- T42, T43. -/
theorem test_sneImm :
    (ran 0x4207 (State.reset.setReg 2 7#8)).pc = 0x0202#16 ∧ (ran 0x4208 (State.reset.setReg 2 7#8)).pc = 0x0204#16 := by
  decide

/-- T44, T45. -/
theorem test_seReg :
    (ran 0x5010 (with2 0 0x2A#8 1 0x2A#8)).pc = 0x0204#16 ∧ (ran 0x5010 (with2 0 1#8 1 2#8)).pc = 0x0202#16 := by decide

/-- T47, T48. -/
theorem test_sneReg : (ran 0x9010 (with2 0 1#8 1 2#8)).pc = 0x0204#16 ∧ (ran 0x9330 State.reset).pc = 0x0202#16 := by
  decide

/-- T60. -/
theorem test_ldImm : (ran 0x6A2F State.reset).V[10] = 0x2F#8 := by decide

/-- T62: the sum wraps and VF stays. -/
theorem test_addImm :
    (ran 0x7301 (State.reset.setReg 3 0xFF#8)).V[3] = 0x00#8 ∧ (ran 0x7301 (State.reset.setReg 3 0xFF#8)).V[15] = 0#8 := by
  decide

/-- T64. -/
theorem test_ldReg : (ran 0x8010 (State.reset.setReg 1 0x37#8)).V[0] = 0x37#8 := by decide

/-- T65: VF untouched. -/
theorem test_or :
    (ran 0x8011 ((with2 0 0xF0#8 1 0x0F#8).setReg 15 1#8)).V[0] = 0xFF#8 ∧
    (ran 0x8011 ((with2 0 0xF0#8 1 0x0F#8).setReg 15 1#8)).V[15] = 1#8 := by decide

/-- T66. -/
theorem test_and : (ran 0x8012 (with2 0 0xF3#8 1 0x3C#8)).V[0] = 0x30#8 := by decide

/-- T67. -/
theorem test_xor : (ran 0x8013 (with2 0 0xF3#8 1 0x3C#8)).V[0] = 0xCF#8 := by decide

/-- S1 (C1): 250 + 10. -/
theorem test_addReg :
    (ran 0x8344 (with2 3 250#8 4 10#8)).V[3] = 4#8 ∧ (ran 0x8344 (with2 3 250#8 4 10#8)).V[15] = 1#8 := by decide

/-- T74: X = F, the flag stands. -/
theorem test_addReg_VF : (ran 0x8F14 (with2 15 0x10#8 1 0x20#8)).V[15] = 0#8 := by decide

/-- S2. -/
theorem test_subReg :
    (ran 0x8015 (with2 0 3#8 1 5#8)).V[0] = 254#8 ∧ (ran 0x8015 (with2 0 5#8 1 3#8)).V[15] = 1#8 := by decide

/-- T76: equal operands give flag 0. -/
theorem test_subReg_equal : (ran 0x8015 ((with2 0 7#8 1 7#8).setReg 15 1#8)).V[15] = 0#8 := by decide

/-- T82. -/
theorem test_shr :
    (ran 0x8236 (with2 2 0x05#8 3 0xEE#8)).V[2] = 0x02#8 ∧ (ran 0x8236 (with2 2 0x05#8 3 0xEE#8)).V[15] = 1#8 := by
  decide

/-- T79, T80. -/
theorem test_subnReg :
    (ran 0x8017 (with2 0 3#8 1 5#8)).V[15] = 1#8 ∧ (ran 0x8017 (with2 0 5#8 1 3#8)).V[0] = 254#8 := by decide

/-- T87, T88. -/
theorem test_shl :
    (ran 0x823E (State.reset.setReg 2 0x81#8)).V[2] = 0x02#8 ∧ (ran 0x820E (State.reset.setReg 2 0x7F#8)).V[15] = 0#8 := by
  decide

/-- T90. -/
theorem test_rnd : (ran 0xC00F { State.reset with rnd := 0xB7#8 }).V[0] = 0x07#8 := by decide

/-- T100. -/
theorem test_ldI : (ran 0xAFFF State.reset).I = 0x0FFF#16 := by decide

/-- T101, T102. -/
theorem test_addI :
    (ran 0xF01E ((State.reset.setI 0x0FFE#16).setReg 0 5#8)).I = 0x1003#16 ∧
    (ran 0xF01E ((State.reset.setI 0xFFFF#16).setReg 0 1#8)).I = 0x0000#16 := by decide

/-- T104: VX is not masked. -/
theorem test_ldF : (ran 0xF429 (State.reset.setReg 4 0xFF#8)).I = 0x04FB#16 := by decide

/-- T108: the digits wrap over the top of memory. -/
theorem test_ldB :
    ((ran 0xF233 ((State.reset.setI 0x0FFF#16).setReg 2 123#8)).peek 0xFFF,
     (ran 0xF233 ((State.reset.setI 0x0FFF#16).setReg 2 123#8)).peek 0x000,
     (ran 0xF233 ((State.reset.setI 0x0FFF#16).setReg 2 123#8)).peek 0x001) = (1#8, 2#8, 3#8) ∧
    (ran 0xF233 ((State.reset.setI 0x0FFF#16).setReg 2 123#8)).oob = true := by decide

/-- T109. -/
theorem test_storeRegs :
    ((ran 0xF155 ((with2 0 0x11#8 1 0x22#8).setI 0x0400#16)).peek 0x401 = 0x22#8) ∧
    ((ran 0xF155 (((with2 0 0x11#8 1 0x22#8).setReg 2 0x33#8).setI 0x0400#16)).peek 0x402 = 0x00#8) := by decide

/-- T113 in part (the default FONT). -/
theorem test_loadRegs : (ran 0xFF65 State.reset).V[5] = 0x20#8 ∧ (ran 0xFF65 State.reset).V[15] = 0xF0#8 := by decide

/-- T112 in part: the register above X is unchanged. -/
theorem test_loadRegs_stops : (ran 0xF265 (State.reset.setReg 3 0x99#8)).V[3] = 0x99#8 := by decide

/-- S3 on one pixel. -/
theorem test_cls : (ran 0x00E0 (State.reset.setFb (State.reset.fb.setPixel 63 31 true))).fb.pixel 63 31 = false := by decide

/-- The state of T120 and T121: the sprite C3 81 at 0x300, V0 = 62, V1 = 31. -/
def sprite2 : State := (((with2 0 62#8 1 31#8).setI 0x0300#16).poke 0x300 0xC3#8).poke 0x301 0x81#8

/-- T121: wrapping at both edges. -/
theorem test_drw_wraps :
    ((ran 0xD012 sprite2).fb.pixel 63 31, (ran 0xD012 sprite2).fb.pixel 5 31, (ran 0xD012 sprite2).fb.pixel 0 31,
     (ran 0xD012 sprite2).fb.pixel 5 0, (ran 0xD012 sprite2).fb.pixel 63 0) = (true, true, false, true, false) := by decide

/-- T123: a collision. -/
theorem test_drw_collides :
    ((ran 0xD011 (((with2 0 10#8 1 5#8).setI 0x0300#16).poke 0x300 0xC0#8 |>.setFb
      (State.reset.fb.setPixel 10 5 true))).V[15]) = 1#8 := by decide

/-- T140, T144. -/
theorem test_skp :
    (ran 0xE39E { State.reset.setReg 3 5#8 with keys := 0x0020#16 }).pc = 0x0204#16 ∧
    (ran 0xE39E { State.reset.setReg 3 0x1A#8 with keys := 0x0400#16 }).pc = 0x0204#16 := by decide

/-- T142, T143. -/
theorem test_sknp :
    (ran 0xE3A1 { State.reset.setReg 3 5#8 with keys := 0x0020#16 }).pc = 0x0202#16 ∧
    (ran 0xE3A1 (State.reset.setReg 3 5#8)).pc = 0x0204#16 := by decide

/-- T146. -/
theorem test_ldVxDt : (ran 0xF507 (State.reset.setDt 0x2A#8)).V[5] = 0x2A#8 := by decide

/-- T147, T148. -/
theorem test_ldVxK :
    (ran 0xF10A State.reset).pc = 0x0200#16 ∧ (ran 0xF10A { State.reset with keys := 0x0120#16 }).V[1] = 5#8 := by decide

/-- T151. -/
theorem test_ldDtVx : (ran 0xF015 (State.reset.setReg 0 3#8)).dt = 3#8 := by decide

/-- T152. -/
theorem test_ldStVx : (ran 0xF718 (State.reset.setReg 7 0x10#8)).st = 0x10#8 := by decide

/-- T49, T50, T93, T145, T153, one word each. -/
theorem test_unassigned :
    ([0x5011, 0x9015, 0x8128, 0xE39F, 0xF1FF].map fun w => ((ran w State.reset).err.code, (ran w State.reset).pc)) =
      List.replicate 5 (3#2, 0x0202#16) := by decide

/-- The state a load of `image` leaves, where it is open and does not fail. -/
def loaded (image : List Byte) (s : State) : State :=
  if h : s.loadOpen = true then
    match loadProgram (some image) s h with
    | .ok t => t
    | .error _ => s
  else s

/-- 70_reset_and_hazards.md R243: the image stands at 0x200 upward; placing a word after reset gives the same bytes. -/
theorem test_loadProgram :
    (loaded [0x22#8, 0x01#8] State.reset).mem = [(0x200, 0x22#8), (0x201, 0x01#8)] ∧
    (State.reset.withFetchWord 16 0x2201).mem = (loaded [0x22#8, 0x01#8] State.reset).mem := by decide

/-- R251: the load is open after reset, until the load or the first step, and `rst` opens it again. -/
theorem test_load_once_before_the_first_step :
    State.reset.loadOpen = true ∧ (loaded [0x22#8] State.reset).loadOpen = false ∧ (ran 0x00E0 State.reset).loadOpen = false ∧
    (assertReset (ran 0x00E0 State.reset)).loadOpen = true := by decide

/-- A listed input is what the next step sees: the host's key write, its byte, and its clock. -/
theorem test_listed_input :
    (ran 0x00E0 (State.reset.withInputs [⟨0xB7#8, 7, some 0x0120#16⟩])).keys = 0x0120#16 ∧
    (ran 0x00E0 (State.reset.withInputs [⟨0xB7#8, 7, some 0x0120#16⟩])).rnd = 0xB7#8 ∧
    (ran 0x00E0 (State.reset.withInputs [⟨0xB7#8, 7, some 0x0120#16⟩])).now = 7 := by decide

/-- A store of what an address reads as unlisted takes its entry away. -/
theorem test_canonical_write :
    ((State.reset.poke 0x300 5#8).poke 0x300 0#8).mem = [] ∧ (State.reset.poke 0x0 0xF0#8).mem = [] := by decide

/-! ### Witnesses: for each statement with hypotheses, values that meet them together -/

/-- DecodeOfEncodeIsTheInstruction, at the edges of the constraints. -/
theorem witness_wellFormed :
    Instr.wf (.sys 0x0E1#12) = true ∧ Instr.wf (.sys 0x0ED#12) = true ∧ Instr.wf (.unassigned8 15 15 0xD#4) = true ∧
    Instr.wf (.unassignedF 0 0x66#8) = true := by decide

/-- GroupZeroWords, at both ends of the range. -/
theorem witness_groupZero :
    ((0x0000#16).toNat ≤ 0x0FFF ∧ (0x0000#16 : Word16) ≠ 0x00E0#16 ∧ (0x0000#16 : Word16) ≠ 0x00EE#16) ∧
    ((0x0FFF#16).toNat ≤ 0x0FFF ∧ (0x0FFF#16 : Word16) ≠ 0x00E0#16 ∧ (0x0FFF#16 : Word16) ≠ 0x00EE#16) := by decide

/-- StepRunsTheDecodedInstruction. -/
theorem witness_bytes_at_pc :
    Instr.wf (.drw 0 1 2#4) = true ∧
    decode [(State.reset.withFetchWord 16 0xD012).peek 0x200, (State.reset.withFetchWord 16 0xD012).peek 0x201] =
      .ok (.drw 0 1 2#4, []) := ⟨rfl, by rw [show (State.reset.withFetchWord 16 0xD012).peek 0x200 = 0xD0#8 by decide,
        show (State.reset.withFetchWord 16 0xD012).peek 0x201 = 0x12#8 by decide]; rfl⟩

/-- StepKeepsGoodStates, HostMovesKeepGoodStates, and the step statements without other hypotheses. -/
theorem witness_good_step : State.reset.Good ∧ ∃ t, step State.reset = .next t :=
  ⟨⟨rfl, Nat.le_refl _, by decide⟩, _, rfl⟩

/-- ResetIsGood: the first and the last reading of an 8-bit clock. -/
theorem witness_clock_readings : 0 < 2 ^ other.params.timeBits ∧ 255 < 2 ^ other.params.timeBits := by decide

/-- TimerGateTicksBothTimersTogether, SetTimers: one unit before the machine's period is over, and just when it is, at the end of an
8-bit clock's range; a named period. -/
theorem witness_gate_edges :
    ({ other with lastTick := 245, now := 254 } : State).ClockOk ∧
    ¬ ({ other with lastTick := 245, now := 254 } : State).PeriodOver other.params.tickPeriod ∧
    ({ other with lastTick := 245, now := 255 } : State).ClockOk ∧
    ({ other with lastTick := 245, now := 255 } : State).PeriodOver other.params.tickPeriod ∧
    other.params.tickPeriodPred = some 9 := ⟨⟨by decide, by decide⟩, by decide, ⟨by decide, by decide⟩, by decide, rfl⟩

/-- TimersFallByAtMostOnePerStep: a step whose instruction writes no timer. -/
theorem witness_step_without_timer_write :
    (∃ t, step (State.reset.withFetchWord 16 0x1200) = .next t) ∧
    decodeWord (State.reset.withFetchWord 16 0x1200).fetchWord = .jp 0x200#12 ∧
    (State.reset.withFetchWord 16 0x1200).ClockOk := ⟨⟨_, rfl⟩, by decide, ⟨by decide, by decide⟩⟩

/-- TimersFallAtMostOncePerPeriod: a run of one step that writes no timer. -/
theorem witness_run_without_timer_write :
    (State.reset.withFetchWord 16 0x1200).Good ∧ (∃ t, stepTimes 1 (State.reset.withFetchWord 16 0x1200) = .next t) ∧
    (∀ k u x, k < 1 → stepTimes k (State.reset.withFetchWord 16 0x1200) = .next u →
      decodeWord u.fetchWord ≠ .ldDtVx x ∧ decodeWord u.fetchWord ≠ .ldStVx x) := by
  refine ⟨⟨by decide, Nat.le_refl _, by decide⟩, ⟨_, rfl⟩, ?_⟩
  intro k u x hk h
  obtain rfl : k = 0 := by omega
  obtain rfl := Host.Outcome.next.inj h
  rw [show decodeWord (State.reset.withFetchWord 16 0x1200).fetchWord = .jp 0x200#12 by decide]
  exact ⟨Instr.noConfusion, Instr.noConfusion⟩

/-- ReportsComeOnlyFromTheirInstructions, ReportingStepDropsItsInstruction: each of the three reports happens. -/
theorem witness_reports :
    (ran 0x2200 { State.reset with sp := 16 }).err = .stackOverflow ∧ (ran 0x00EE State.reset).err = .stackUnderflow ∧
    (ran 0x5011 State.reset).err = .unknownOpcode := by decide

/-- RegistersOutsideTheDestinationsAreKept: VF beside an addition into V0, V4 above a load of V0 to V3. -/
theorem witness_register_kept :
    (∃ t, exec (.addImm 0 1#8) State.reset = .next t) ∧ writesReg (.addImm 0 1#8) 15 = false ∧
    (∃ t, exec (.loadRegs 3) State.reset = .next t) ∧ writesReg (.loadRegs 3) 4 = false :=
  ⟨⟨_, rfl⟩, by decide, ⟨_, rfl⟩, by decide⟩

/-- MemoryOutsideTheStoresIsKept: the byte after a store of V0 and V1. -/
theorem witness_byte_kept :
    (∃ t, exec (.storeRegs 1) State.reset = .next t) ∧ ¬ StoredTo (.storeRegs 1) State.reset 2 := by
  refine ⟨⟨_, rfl⟩, ?_⟩
  rintro ⟨k, hk, h⟩
  have hk : k < 2 := hk
  interval_cases k <;> revert h <;> decide

/-- OtherStateChangesOnlyByItsWriters: an instruction outside every list of writers but its own. -/
theorem witness_no_other_writer : (∃ t, exec (.ldImm 0 1#8) State.reset = .next t) ∧
    (∀ nnn x, Instr.ldImm 0 1#8 ≠ .ldI nnn ∧ Instr.ldImm 0 1#8 ≠ .addI x ∧ Instr.ldImm 0 1#8 ≠ .ldF x) ∧
    (∀ x y n, Instr.ldImm 0 1#8 ≠ .cls ∧ Instr.ldImm 0 1#8 ≠ .drw x y n) :=
  ⟨⟨_, rfl⟩, fun _ _ => ⟨Instr.noConfusion, Instr.noConfusion, Instr.noConfusion⟩,
    fun _ _ _ => ⟨Instr.noConfusion, Instr.noConfusion⟩⟩

/-- RandomByteMattersOnlyToRnd, KeysMatterOnlyToTheKeyInstructions and ClockMattersOnlyToTheTimerGate: a draw. -/
theorem witness_reads_neither :
    (∃ t, exec (.drw 0 1 2#4) State.reset = .next t) ∧ (∀ x nn, Instr.drw 0 1 2#4 ≠ .rnd x nn) ∧
    (∀ x, Instr.drw 0 1 2#4 ≠ .skp x ∧ Instr.drw 0 1 2#4 ≠ .sknp x ∧ Instr.drw 0 1 2#4 ≠ .ldVxK x) :=
  ⟨⟨_, rfl⟩, fun _ _ => Instr.noConfusion, fun _ => ⟨Instr.noConfusion, Instr.noConfusion, Instr.noConfusion⟩⟩

/-- RetPopsTheNewestEntry: one entry held, sixteen held, none held. -/
theorem witness_ret :
    ({ State.reset with sp := 1 } : State).sp = (0 : Fin 16).succ ∧
    ({ State.reset with sp := 16 } : State).sp = (15 : Fin 16).succ ∧ State.reset.sp = 0 := by decide

/-- CallPushesThePc, RetAfterCallComesBack, SeventeenthCallOverflows: none held, fifteen held, sixteen held. -/
theorem witness_call :
    State.reset.sp = (0 : Fin 16).castSucc ∧ ({ State.reset with sp := 15 } : State).sp = (15 : Fin 16).castSucc ∧
    ({ State.reset with sp := 16 } : State).sp = Fin.last 16 ∧ State.reset.sp.val < 16 ∧ State.reset.sp = 0 := by decide

/-- AddRegistersWithCarry, SubtractRegisters, ShiftRegister: a destination that is not VF. -/
theorem witness_not_VF : (14 : RegIdx) ≠ 15 := by decide

/-- LoadBringsBackWhatStoreStored: all sixteen registers, across the top of memory. -/
theorem witness_store : ∃ t, exec (.storeRegs 15) (State.reset.setI 0x0FF8#16) = .next t := ⟨_, rfl⟩

/-- DrawingTwiceRestoresTheScreen: the registers of the position are not written by the first draw. -/
theorem witness_draw_same_place :
    ∃ t, exec (.drw 0 1 5#4) State.reset = .next t ∧ t.reg 0 = State.reset.reg 0 ∧ t.reg 1 = State.reset.reg 1 :=
  ⟨_, rfl, by decide, by decide⟩

/-- KeyWait and KeyWaitStepMakesNoProgress: with key F down, with none; the default KEY_PICK. -/
theorem witness_keys :
    State.reset.params.picks = [] ∧
    (0x8000#16 : Word16) ≠ 0#16 ∧ State.reset.keys = 0#16 ∧
    decodeWord (State.reset.withFetchWord 16 0xF30A).fetchWord = .ldVxK 3 ∧
    (State.reset.withFetchWord 16 0xF30A).keys = 0#16 := by decide

/-- ProgramLoadCopiesTheImage: the load is open after reset; the longest image that is taken, the shortest that is refused, and an
empty one. -/
theorem witness_image_lengths :
    State.reset.loadOpen = true ∧ (List.replicate 3584 0x12#8).length ≤ 3584 ∧ 3584 < (List.replicate 3585 0x12#8).length ∧
    ([] : List Byte).length ≤ 3584 :=
  ⟨rfl, Nat.le_of_eq List.length_replicate, Nat.lt_of_lt_of_eq (Nat.lt_succ_self 3584) List.length_replicate.symm, Nat.zero_le _⟩

/-- HostMovesKeepToTheProtocol: the first and the last reading the host may supply next; a step with a listed input and one with none;
an input that keeps the clock within its width and one that would go past it. -/
theorem witness_host_liberties :
    (other.now ≤ 100 ∧ 100 < 2 ^ other.params.timeBits) ∧ (other.now ≤ 255 ∧ 255 < 2 ^ other.params.timeBits) ∧
    (other.withInputs [⟨0xB7#8, 155, none⟩]).inputs = ⟨0xB7#8, 155, none⟩ :: [] ∧ other.inputs = [] ∧
    other.now + 155 < 2 ^ other.params.timeBits ∧ 2 ^ other.params.timeBits ≤ other.now + 156 ∧
    (∃ t, step other = .next t) ∧ ∃ t, step (other.withInputs [⟨0xB7#8, 155, none⟩]) = .next t :=
  ⟨by decide, by decide, rfl, rfl, by decide, by decide, ⟨_, rfl⟩, ⟨_, rfl⟩⟩

/-- HostMovesKeepToTheProtocol, HostMovesKeepGoodStates: from the state after reset each of the four moves can be made, and a byte can
go through the load port at 0x200 and at 0xFFF. -/
theorem witness_host_moves :
    State.reset.Good ∧ (∃ t, HostMove State.reset t) ∧ HostMove State.reset (loaded [0x12#8, 0x00#8] State.reset) ∧
    HostMove State.reset (writeKeys 0x8000#16 State.reset) ∧ HostMove State.reset (driveInputs 0xB7#8 7 State.reset) ∧
    (State.reset.loadOpen = true ∧ Config.progBase ≤ (0x200#12 : Addr12).toNat) ∧
    (State.reset.loadOpen = true ∧ Config.progBase ≤ (0xFFF#12 : Addr12).toNat) :=
  ⟨⟨rfl, Nat.le_refl _, by decide⟩, ⟨_, .reset⟩, .load [0x12#8, 0x00#8] _ rfl rfl, .keys _, .inputs _ _, by decide, by decide⟩

/-- SelfJumpSpinsForever: `1200` at 0x200. -/
theorem witness_self_jump : (State.reset.withFetchWord 16 0x1200).SpinsForever := by
  unfold State.SpinsForever
  decide

/-- EqualReadsMakeEqualMemories. -/
theorem witness_memory_wf : Memory.wf fontDefault [] = true ∧ Memory.wf fontDefault [(0, 0#8), (0xFFF, 1#8)] = true := by decide

end Sys2Proof.Tests
end

section
/-! Group 0 of the opcode map: its words, and what SYS does with the NNN of one (30_encoding.md R95; 41_flow.md R141). -/

open Sys2Proof Sys2Proof.Machine

namespace Sys2Proof

/-- `NNN` is the low twelve bits of the word (30_encoding.md R91). -/
theorem fieldNNN_eq_setWidth (w : Word16) : fieldNNN w = w.setWidth 12 :=
  (BitVec.setWidth_eq_extractLsb' (by decide)).symm

/-- The words whose top four bits are 0 are those up to 0x0FFF. -/
theorem fieldTop_eq_zero_iff {w : Word16} : (fieldTop w).val = 0x0 ↔ w.toNat ≤ 0x0FFF := by
  rw [fieldTop_val]
  have := w.isLt
  omega

/-- A word whose top four bits are 0 is decoded by group 0 (30_encoding.md R93). -/
theorem decodeWord_of_fieldTop_zero {w : Word16} (h : (fieldTop w).val = 0x0) : decodeWord w = decode0 w := by
  simp only [decodeWord, h]

/-- Group 0 beside its two full words (30_encoding.md R95). -/
theorem decode0_of_ne {w : Word16} (hcls : w ≠ 0x00E0#16) (hret : w ≠ 0x00EE#16) :
    decode0 w = .sys (fieldNNN w) := by
  rw [decode0, if_neg hcls, if_neg hret]

/-- A word whose top four bits are 0 is its own NNN, zero-extended. -/
theorem zext12_setWidth_of_le {w : Word16} (h : w.toNat ≤ 0x0FFF) : zext12 (w.setWidth 12) = w := by
  apply BitVec.eq_of_toNat_eq
  rw [zext12, BitVec.toNat_setWidth, BitVec.toNat_setWidth]
  omega

/-- SYS moves `pc` to its NNN and changes nothing else (41_flow.md R141). -/
theorem Machine.exec_sys (nnn : Addr12) (s : State) : exec (.sys nnn) s = .next { s with pc := zext12 nnn } := rfl

end Sys2Proof

/-- Settles O4: top bits 0 select group 0, whose words other than the two full ones are SYS, and such a word, its top bits being 0,
is the address its own NNN stands for. -/
theorem groupZeroWords : Obligations.GroupZeroWords := by
  refine ⟨by decide, by decide, ?_⟩
  intro w hle hcls hret
  have hsys : decodeWord w = .sys (w.setWidth 12) := by
    rw [decodeWord_of_fieldTop_zero (fieldTop_eq_zero_iff.2 hle), decode0_of_ne hcls hret, fieldNNN_eq_setWidth]
  refine ⟨hsys, fun s => ?_⟩
  rw [hsys, exec_sys, zext12_setWidth_of_le hle]
end

section
/-! Control transfer: what 00EE, 1NNN, 2NNN and BNNN do, in the model's own operations on `pc` and the stack, and what those
operations come to where the number of entries held is given (41_flow.md R140 to R144; 10_state.md R25). -/

open Sys2Proof Sys2Proof.Machine

namespace Sys2Proof

/-! ### Zero extension (00_scope.md R12) -/

@[simp] theorem toNat_zext12 (a : Addr12) : (zext12 a).toNat = a.toNat :=
  BitVec.toNat_setWidth_of_le (by decide)

@[simp] theorem toNat_zext8 (b : Byte) : (zext8 b).toNat = b.toNat :=
  BitVec.toNat_setWidth_of_le (by decide)

/-- The target of BNNN is the exact sum: at most 0x0FFF + 0xFF, it does not wrap (41_flow.md R144). -/
theorem Machine.State.toNat_v0Target (s : State) (nnn : Addr12) :
    (s.v0Target nnn).toNat = nnn.toNat + (s.reg 0).toNat := by
  have hnnn := nnn.isLt
  have hv0 := (s.reg 0).isLt
  have hnowrap : (zext12 nnn).toNat + (zext8 (s.reg 0)).toNat < 2 ^ 16 := by
    rw [toNat_zext12, toNat_zext8]
    omega
  rw [State.v0Target, BitVec.toNat_add_of_lt hnowrap, toNat_zext12, toNat_zext8]

/-! ### The jumps -/

/-- Setting `pc` changes nothing else. -/
theorem Machine.State.onlyPcDiffers_setPc (s : State) (target : Word16) : OnlyPcDiffers s (s.setPc target) :=
  ⟨State.peek_congr rfl rfl, rfl⟩

/-- JP moves `pc` to its NNN (41_flow.md R142). -/
theorem Machine.exec_jp (nnn : Addr12) (s : State) : exec (.jp nnn) s = .next (s.setPc (zext12 nnn)) := rfl

/-- JP V0 moves `pc` to NNN + V0 (41_flow.md R144). -/
theorem Machine.exec_jpV0 (nnn : Addr12) (s : State) : exec (.jpV0 nnn) s = .next (s.setPc (s.v0Target nnn)) := rfl

/-! ### The stack, `n` naming the entry a push fills or a drop gives up (10_state.md R25) -/

theorem Machine.State.push_of_sp {s : State} {n : Fin 16} (hsp : s.sp = n.castSucc) (v : Word16) (hroom : s.sp.val < 16) :
    s.push v hroom = { s with stack := s.stack.set n v, sp := n.succ } := by
  obtain ⟨⟩ := s
  obtain rfl := hsp
  rfl

theorem Machine.State.drop_of_sp {s : State} {n : Fin 16} (hsp : s.sp = n.succ) :
    s.drop = { s with sp := n.castSucc } := by
  obtain ⟨⟩ := s
  obtain rfl := hsp
  rfl

theorem Machine.State.top_of_sp {s : State} {n : Fin 16} (hsp : s.sp = n.succ) (hheld : 0 < s.sp.val) :
    s.top hheld = s.stack[n] := by
  obtain ⟨⟩ := s
  obtain rfl := hsp
  rfl

/-! ### RET and CALL -/

/-- RET with entries held (41_flow.md R140). -/
theorem Machine.exec_ret_of_held {s : State} (hheld : 0 < s.sp.val) :
    exec .ret s = .next (s.drop.setPc (s.top hheld)) :=
  congrArg _ (dif_pos hheld)

/-- RET on an empty stack (41_flow.md R140; 60_exceptions.md R212). -/
theorem Machine.exec_ret_of_empty {s : State} (hempty : ¬ 0 < s.sp.val) :
    exec .ret s = .next (s.report .stackUnderflow) :=
  congrArg _ (dif_neg hempty)

/-- CALL with room on the stack (41_flow.md R143). -/
theorem Machine.exec_call_of_room {s : State} (nnn : Addr12) (hroom : s.sp.val < 16) :
    exec (.call nnn) s = .next ((s.push s.pc hroom).setPc (zext12 nnn)) :=
  congrArg _ (dif_pos hroom)

/-- CALL on a full stack (41_flow.md R143; 60_exceptions.md R211). -/
theorem Machine.exec_call_of_full {s : State} (nnn : Addr12) (hfull : ¬ s.sp.val < 16) :
    exec (.call nnn) s = .next (s.report .stackOverflow) :=
  congrArg _ (dif_neg hfull)

end Sys2Proof

/-- Settles O23: whether an entry is held decides between the pop and the report; with `n + 1` held the newest is entry `n`. -/
theorem retPopsTheNewestEntry : Obligations.RetPopsTheNewestEntry := by
  constructor
  · intro s n hsp
    have hheld : 0 < s.sp.val := by simp [hsp]
    rw [exec_ret_of_held hheld, State.top_of_sp hsp, State.drop_of_sp hsp]
    rfl
  · intro s hsp
    have hempty : ¬ 0 < s.sp.val := by simp [hsp]
    rw [exec_ret_of_empty hempty]
    rfl

/-- Settles O24: SYS sets `pc` to NNN zero-extended, the same number. -/
theorem sysJumpsToNnn : Obligations.SysJumpsToNnn := by
  intro nnn s
  exact ⟨s.setPc (zext12 nnn), exec_sys nnn s, toNat_zext12 nnn, s.onlyPcDiffers_setPc _⟩

/-- Settles O25: JP sets `pc` to NNN zero-extended, the same number. -/
theorem jpJumpsToNnn : Obligations.JpJumpsToNnn := by
  intro nnn s
  exact ⟨s.setPc (zext12 nnn), exec_jp nnn s, toNat_zext12 nnn, s.onlyPcDiffers_setPc _⟩

/-- Settles O26: whether there is room decides between the push and the report; with `n` held the push fills entry `n`. -/
theorem callPushesThePc : Obligations.CallPushesThePc := by
  constructor
  · intro nnn s n hsp
    have hroom : s.sp.val < 16 := by simp [hsp]
    rw [exec_call_of_room nnn hroom, State.push_of_sp hsp]
    rfl
  · intro nnn s hsp
    have hfull : ¬ s.sp.val < 16 := by simp [hsp]
    rw [exec_call_of_full nnn hfull]
    rfl

/-- Settles O27: JP V0 sets `pc` to NNN + V0, a sum that does not wrap. -/
theorem jpV0AddsV0 : Obligations.JpV0AddsV0 := by
  intro nnn s
  exact ⟨s.setPc (s.v0Target nnn), exec_jpV0 nnn s, s.toNat_v0Target nnn, s.onlyPcDiffers_setPc _⟩
end

section
/-! The instructions whose whole effect is one write of VX: what each of them writes, and the frame of such a write
(43_alu.md R160 to R165; 10_state.md R22). -/

open Sys2Proof Sys2Proof.Machine

namespace Sys2Proof

/-! ### The frame of a register write -/

/-- A write of VX keeps the other registers, VF among them unless X = F. -/
theorem Machine.State.regsKeptBut_setReg (s : State) (x : RegIdx) (v : Byte) : RegsKeptBut (· = x) s (s.setReg x v) :=
  fun _ hne => s.reg_setReg_ne v hne

/-- A register write changes nothing beside the registers. -/
theorem Machine.State.onlyRegsDiffer_setReg (s : State) (x : RegIdx) (v : Byte) : OnlyRegsDiffer s (s.setReg x v) :=
  ⟨fun a => State.peek_congr (s.setReg_mem x v) (s.setReg_params x v) a, rfl⟩

/-! ### What each instruction writes -/

/-- 6XNN (43_alu.md R160). -/
theorem Machine.exec_ldImm (x : RegIdx) (nn : Byte) (s : State) : exec (.ldImm x nn) s = .next (s.setReg x nn) := rfl

/-- 7XNN (43_alu.md R161). -/
theorem Machine.exec_addImm (x : RegIdx) (nn : Byte) (s : State) :
    exec (.addImm x nn) s = .next (s.setReg x (s.reg x + nn)) := rfl

/-- 8XY0 (43_alu.md R162). -/
theorem Machine.exec_ldReg (x y : RegIdx) (s : State) : exec (.ldReg x y) s = .next (s.setReg x (s.reg y)) := rfl

/-- 8XY1 (43_alu.md R163). -/
theorem Machine.exec_orReg (x y : RegIdx) (s : State) :
    exec (.orReg x y) s = .next (s.setReg x (s.reg x ||| s.reg y)) := rfl

/-- 8XY2 (43_alu.md R164). -/
theorem Machine.exec_andReg (x y : RegIdx) (s : State) :
    exec (.andReg x y) s = .next (s.setReg x (s.reg x &&& s.reg y)) := rfl

/-- 8XY3 (43_alu.md R165). -/
theorem Machine.exec_xorReg (x y : RegIdx) (s : State) :
    exec (.xorReg x y) s = .next (s.setReg x (s.reg x ^^^ s.reg y)) := rfl

end Sys2Proof

/-- Settles O31: 6XNN is the register write of NN. -/
theorem loadImmediate : Obligations.LoadImmediate := by
  intro x nn s
  exact ⟨s.setReg x nn, exec_ldImm x nn s, s.reg_setReg_self x nn, s.regsKeptBut_setReg x nn,
    s.onlyRegsDiffer_setReg x nn⟩

/-- Settles O32: 7XNN is the register write of the byte sum, which is the sum modulo 256. -/
theorem addImmediate : Obligations.AddImmediate := by
  intro x nn s
  refine ⟨_, exec_addImm x nn s, ?_, s.regsKeptBut_setReg x _, s.onlyRegsDiffer_setReg x _⟩
  rw [State.reg_setReg_self]
  exact BitVec.toNat_add (s.reg x) nn

/-- Settles O33: 8XY0 is the register write of VY. -/
theorem loadRegister : Obligations.LoadRegister := by
  intro x y s
  exact ⟨_, exec_ldReg x y s, s.reg_setReg_self x _, s.regsKeptBut_setReg x _, s.onlyRegsDiffer_setReg x _⟩

/-- Settles O34: each of the three is the register write of a bitwise operation, read bit by bit. -/
theorem logicOfRegisters : Obligations.LogicOfRegisters := by
  intro x y s
  refine ⟨⟨_, exec_orReg x y s, s.regsKeptBut_setReg x _, s.onlyRegsDiffer_setReg x _, fun k => ?_⟩,
    ⟨_, exec_andReg x y s, s.regsKeptBut_setReg x _, s.onlyRegsDiffer_setReg x _, fun k => ?_⟩,
    ⟨_, exec_xorReg x y s, s.regsKeptBut_setReg x _, s.onlyRegsDiffer_setReg x _, fun k => ?_⟩⟩
  · rw [State.reg_setReg_self, BitVec.getLsbD_or]
  · rw [State.reg_setReg_self, BitVec.getLsbD_and]
  · rw [State.reg_setReg_self, BitVec.getLsbD_xor]
end

section
/-! The instructions that load the index register and do nothing else: the value each loads and the frame of such a load
(44_index_memory.md R180, R182). -/

open Sys2Proof Sys2Proof.Machine

namespace Sys2Proof

/-- Setting `I` changes nothing else. -/
theorem Machine.State.onlyIDiffers_setI (s : State) (v : Word16) : OnlyIDiffers s (s.setI v) :=
  ⟨State.peek_congr (s.setI_mem v) (s.setI_params v), rfl⟩

/-- The product of FX29 is exact: VX is not masked, and at most 255 x 5 it does not wrap (44_index_memory.md R182). -/
@[simp] theorem Machine.toNat_glyphAddr (v : Byte) : (glyphAddr v).toNat = v.toNat * 5 := by
  have hglyphBytes : (BitVec.ofNat 16 Config.glyphBytes).toNat = 5 := rfl
  have hv := v.isLt
  have hnowrap : (zext8 v).toNat * (BitVec.ofNat 16 Config.glyphBytes).toNat < 2 ^ 16 := by
    rw [toNat_zext8, hglyphBytes]
    omega
  rw [glyphAddr, BitVec.toNat_mul_of_lt hnowrap, toNat_zext8, hglyphBytes]

/-- ANNN (44_index_memory.md R180). -/
theorem Machine.exec_ldI (nnn : Addr12) (s : State) : exec (.ldI nnn) s = .next (s.setI (zext12 nnn)) := rfl

/-- FX29 (44_index_memory.md R182). -/
theorem Machine.exec_ldF (x : RegIdx) (s : State) : exec (.ldF x) s = .next (s.setI (glyphAddr (s.reg x))) := rfl

end Sys2Proof

/-- Settles O39: ANNN sets `I` to NNN zero-extended, the same number. -/
theorem loadIndex : Obligations.LoadIndex := by
  intro nnn s
  exact ⟨s.setI (zext12 nnn), exec_ldI nnn s, toNat_zext12 nnn, s.onlyIDiffers_setI _⟩

/-- Settles O41: FX29 sets `I` to the glyph address of VX, a product that does not wrap. -/
theorem loadGlyphAddress : Obligations.LoadGlyphAddress := by
  intro x s
  exact ⟨s.setI (glyphAddr (s.reg x)), exec_ldF x s, toNat_glyphAddr _, s.onlyIDiffers_setI _⟩
end

section
/-! CLS: the framebuffer it writes and the frame of such a write (45_display.md R190). -/

open Sys2Proof Sys2Proof.Machine

namespace Sys2Proof

/-- Replacing the framebuffer keeps every byte of memory. -/
theorem Machine.State.sameMemory_setFb (s : State) (f : Framebuffer) : SameMemory s (s.setFb f) :=
  State.peek_congr (s.setFb_mem f) (s.setFb_params f)

/-- CLS writes the cleared framebuffer and nothing else (45_display.md R190). -/
theorem Machine.exec_cls (s : State) : exec .cls s = .next (s.setFb Framebuffer.clear) := rfl

end Sys2Proof

/-- Settles O46: CLS writes the cleared framebuffer, in which every pixel is unlit. -/
theorem clearScreen : Obligations.ClearScreen := by
  intro s
  have hunlit : ∀ x y, (s.setFb Framebuffer.clear).fb.pixel x y = false := by
    intro x y
    rw [State.setFb_fb, Framebuffer.pixel_clear]
  exact ⟨s.setFb Framebuffer.clear, exec_cls s, hunlit, s.sameMemory_setFb _, rfl⟩
end

section
/-! FX07: the register write that reads the delay timer (46_keys_timers.md R202). -/

open Sys2Proof Sys2Proof.Machine

namespace Sys2Proof

/-- FX07 (46_keys_timers.md R202). -/
theorem Machine.exec_ldVxDt (x : RegIdx) (s : State) : exec (.ldVxDt x) s = .next (s.setReg x s.dt) := rfl

end Sys2Proof

/-- Settles O52: FX07 is the register write of the delay timer. EXECUTE runs before the timer gate, so `s.dt` is the value
the step has not yet counted down. -/
theorem readDelayTimer : Obligations.ReadDelayTimer := by
  intro x s
  exact ⟨s.setReg x s.dt, exec_ldVxDt x s, s.reg_setReg_self x s.dt, s.regsKeptBut_setReg x s.dt,
    s.onlyRegsDiffer_setReg x s.dt⟩
end

section
/-! EXECUTE over all instructions: it always answers, it changes nothing beside the parts its instruction may write, and it
sees the input ports in the named instructions only (10_state.md R20, R29 to R31; 40_step_cycle.md R129). -/

open Sys2Proof Sys2Proof.Machine

namespace Sys2Proof

/-- EXECUTE answers a state for every instruction (40_step_cycle.md R129). -/
theorem Machine.exec_answers (i : Instr) (s : State) : ∃ t, exec i s = .next t := by
  cases i <;> exact ⟨_, rfl⟩

/-! ### What an instruction leaves alone -/

/-- `s` with the parts that `i` may write taken from `t`: the "written by" column of 10_state.md R20, read by instruction. -/
def Machine.writtenOver (i : Instr) (s t : State) : State :=
  match i with
  | .cls => { s with fb := t.fb }
  | .ret => { s with sp := t.sp, pc := t.pc, err := t.err }
  | .call _ => { s with stack := t.stack, sp := t.sp, pc := t.pc, err := t.err }
  | .sys _ | .jp _ | .jpV0 _ | .seImm _ _ | .sneImm _ _ | .seReg _ _ | .sneReg _ _ | .skp _ | .sknp _ =>
    { s with pc := t.pc }
  | .ldImm _ _ | .addImm _ _ | .ldReg _ _ | .orReg _ _ | .andReg _ _ | .xorReg _ _ | .addReg _ _ | .subReg _ _
  | .shr _ _ | .subnReg _ _ | .shl _ _ | .rnd _ _ | .ldVxDt _ => { s with V := t.V }
  | .ldVxK _ => { s with V := t.V, pc := t.pc }
  | .ldI _ | .addI _ | .ldF _ => { s with I := t.I }
  | .drw _ _ _ => { s with fb := t.fb, V := t.V, oob := t.oob }
  | .ldDtVx _ => { s with dt := t.dt }
  | .ldStVx _ => { s with st := t.st }
  | .ldB _ | .storeRegs _ => { s with mem := t.mem, oob := t.oob }
  | .loadRegs _ => { s with V := t.V, oob := t.oob }
  | .unassigned5 _ _ _ | .unassigned8 _ _ _ | .unassigned9 _ _ _ | .unassignedE _ _ | .unassignedF _ _ =>
    { s with err := t.err }

/-- FX0A with no key down (46_keys_timers.md R203 (a)). -/
theorem Machine.exec_ldVxK_of_up {s : State} (x : RegIdx) (hup : s.keys = 0#16) :
    exec (.ldVxK x) s = .next (s.setPc (s.pc - 2#16)) :=
  congrArg _ (if_pos hup)

/-- FX0A with a key down (46_keys_timers.md R203 (b)). -/
theorem Machine.exec_ldVxK_of_down {s : State} (x : RegIdx) (hdown : s.keys ≠ 0#16) :
    exec (.ldVxK x) s = .next (s.setReg x (BitVec.ofNat 8 (keyPick s.params.picks s.keys))) :=
  congrArg _ (if_neg hdown)

/-- DXYN, its marks decided by the last byte of the sprite (45_display.md R191; 20_memory.md R65). -/
theorem Machine.exec_drw (x y : RegIdx) (n : Nibble) (s : State) :
    exec (.drw x y n) s =
      .next ((({ s with oob := s.oob || decide (0 < n.toNat ∧ s.dataAddr 0 + n.toNat - 1 > 0xFFF) } : State).setFb
        (s.drawSprite x y n).1).setFlag (s.drawSprite x y n).2) := by
  rw [← State.markOobRange_eq]
  rfl

/-- FX55 (44_index_memory.md R184). -/
theorem Machine.exec_storeRegs (x : RegIdx) (s : State) :
    exec (.storeRegs x) s = .next (s.storeBlock (x.val + 1) x.isLt) := rfl

/-- FX65 (44_index_memory.md R185). -/
theorem Machine.exec_loadRegs (x : RegIdx) (s : State) :
    exec (.loadRegs x) s = .next (s.loadBlock (x.val + 1) x.isLt) := rfl

/-- FX33 (44_index_memory.md R183). -/
theorem Machine.exec_ldB (x : RegIdx) (s : State) :
    exec (.ldB x) s = .next (((s.poke (s.dataAddr 0) (hundreds (s.reg x))).poke (s.dataAddr 1) (tens (s.reg x))).poke
      (s.dataAddr 2) (units (s.reg x))) := rfl

/-- An instruction changes nothing beside the parts it may write (10_state.md R20). -/
theorem Machine.exec_frame {i : Instr} {s t : State} (h : exec i s = .next t) : t = writtenOver i s t := by
  cases i
  case ret =>
    by_cases hheld : 0 < s.sp.val
    · rw [exec_ret_of_held hheld] at h
      cases h; rfl
    · rw [exec_ret_of_empty hheld] at h
      cases h; rfl
  case call nnn =>
    by_cases hroom : s.sp.val < 16
    · rw [exec_call_of_room nnn hroom] at h
      cases h; rfl
    · rw [exec_call_of_full nnn hroom] at h
      cases h; rfl
  case ldVxK x =>
    by_cases hup : s.keys = 0#16
    · rw [exec_ldVxK_of_up x hup] at h
      cases h; rfl
    · rw [exec_ldVxK_of_down x hup] at h
      cases h; rfl
  case drw x y n =>
    rw [exec_drw] at h
    cases h; rfl
  case storeRegs x =>
    rw [exec_storeRegs] at h
    cases h; exact s.storeBlock_frame _ _
  case loadRegs x =>
    rw [exec_loadRegs] at h
    cases h; exact s.loadBlock_frame _ _
  all_goals cases h; rfl

/-- Only FX33 and FX55 store (20_memory.md R64). -/
theorem Machine.storeCount_cases (i : Instr) :
    storeCount i = 0 ∨ (∃ x, i = .ldB x) ∨ ∃ x, i = .storeRegs x := by
  cases i
  case ldB x => exact .inr (.inl ⟨x, rfl⟩)
  case storeRegs x => exact .inr (.inr ⟨x, rfl⟩)
  all_goals exact .inl rfl

section
variable {i : Instr} {s t : State} (h : exec i s = .next t)
include h

/-- What the host drives, the gate's `last_tick`, the parameters and the model's own fields are written by no instruction
(10_state.md R20, R29 to R31, R33). -/
theorem Machine.exec_keeps_host_fields :
    t = { t with
      keys := s.keys, lastTick := s.lastTick, rnd := s.rnd, now := s.now, inputs := s.inputs, stepNo := s.stepNo
      params := s.params, loadOpen := s.loadOpen } := by
  rw [exec_frame h]
  cases i <;> rfl

theorem Machine.exec_params : t.params = s.params :=
  (congrArg State.params (exec_keeps_host_fields h) :)

theorem Machine.exec_lastTick : t.lastTick = s.lastTick :=
  (congrArg State.lastTick (exec_keeps_host_fields h) :)

theorem Machine.exec_now : t.now = s.now :=
  (congrArg State.now (exec_keeps_host_fields h) :)

theorem Machine.exec_keys : t.keys = s.keys :=
  (congrArg State.keys (exec_keeps_host_fields h) :)

theorem Machine.exec_rnd_port : t.rnd = s.rnd :=
  (congrArg State.rnd (exec_keeps_host_fields h) :)

theorem Machine.exec_mem_of_no_store (hi : storeCount i = 0) : t.mem = s.mem := by
  rw [exec_frame h]
  cases i
  case ldB => cases hi
  case storeRegs => cases hi
  all_goals rfl

theorem Machine.exec_I_of_no_write (hi : ∀ nnn x, i ≠ .ldI nnn ∧ i ≠ .addI x ∧ i ≠ .ldF x) : t.I = s.I := by
  rw [exec_frame h]
  cases i
  case ldI nnn => exact absurd rfl (hi nnn 0).1
  case addI x => exact absurd rfl (hi 0 x).2.1
  case ldF x => exact absurd rfl (hi 0 x).2.2
  all_goals rfl

theorem Machine.exec_stack_of_no_write (hi : ∀ nnn, i ≠ .call nnn) : t.stack = s.stack := by
  rw [exec_frame h]
  cases i
  case call nnn => exact absurd rfl (hi nnn)
  all_goals rfl

theorem Machine.exec_sp_of_no_write (hi : ∀ nnn, i ≠ .call nnn ∧ i ≠ .ret) : t.sp = s.sp := by
  rw [exec_frame h]
  cases i
  case call nnn => exact absurd rfl (hi nnn).1
  case ret => exact absurd rfl (hi 0).2
  all_goals rfl

theorem Machine.exec_dt_of_no_write (hi : ∀ x, i ≠ .ldDtVx x) : t.dt = s.dt := by
  rw [exec_frame h]
  cases i
  case ldDtVx x => exact absurd rfl (hi x)
  all_goals rfl

theorem Machine.exec_st_of_no_write (hi : ∀ x, i ≠ .ldStVx x) : t.st = s.st := by
  rw [exec_frame h]
  cases i
  case ldStVx x => exact absurd rfl (hi x)
  all_goals rfl

theorem Machine.exec_fb_of_no_write (hi : ∀ x y n, i ≠ .cls ∧ i ≠ .drw x y n) : t.fb = s.fb := by
  rw [exec_frame h]
  cases i
  case cls => exact absurd rfl (hi 0 0 0).1
  case drw x y n => exact absurd rfl (hi x y n).2
  all_goals rfl

theorem Machine.exec_pc_of_no_write
    (hi : ∀ nnn x y nn, i ≠ .ret ∧ i ≠ .sys nnn ∧ i ≠ .jp nnn ∧ i ≠ .call nnn ∧ i ≠ .jpV0 nnn ∧
      i ≠ .seImm x nn ∧ i ≠ .sneImm x nn ∧ i ≠ .seReg x y ∧ i ≠ .sneReg x y ∧ i ≠ .skp x ∧ i ≠ .sknp x ∧
      i ≠ .ldVxK x) : t.pc = s.pc := by
  rw [exec_frame h]
  cases i
  case ret | sys nnn | jp nnn | call nnn | jpV0 nnn | seImm x nn | sneImm x nn | seReg x y | sneReg x y | skp x | sknp x
      | ldVxK x => simp at hi
  all_goals rfl

end

/-! ### What an instruction sees of the input ports and the keys -/

/-- `s` with another random byte, key mask and clock reading. -/
def Machine.State.withPorts (s : State) (r : Byte) (k : Word16) (c : Nat) : State :=
  { s with rnd := r, keys := k, now := c }

section
variable (s : State) (r : Byte) (k : Word16) (c : Nat)

theorem Machine.State.storeBlock_withPorts (n : Nat) (h : n ≤ 16) :
    (s.withPorts r k c).storeBlock n h = (s.storeBlock n h).withPorts r k c := by
  induction n with
  | zero => rfl
  | succ n ih =>
    rw [State.storeBlock, ih (Nat.le_of_succ_le h)]
    rfl

theorem Machine.State.loadBlock_withPorts (n : Nat) (h : n ≤ 16) :
    (s.withPorts r k c).loadBlock n h = (s.loadBlock n h).withPorts r k c := by
  induction n with
  | zero => rfl
  | succ n ih =>
    rw [State.loadBlock, ih (Nat.le_of_succ_le h)]
    rfl

end

/-- An instruction does the same whatever the ports hold: the random byte is seen by CXNN only, the key mask by EX9E, EXA1 and
FX0A only, the clock by none (40_step_cycle.md R129). -/
theorem Machine.exec_withPorts {i : Instr} {s t : State} (r : Byte) (k : Word16) (c : Nat)
    (hrnd : r = s.rnd ∨ ∀ x nn, i ≠ .rnd x nn)
    (hkeys : k = s.keys ∨ ∀ x, i ≠ .skp x ∧ i ≠ .sknp x ∧ i ≠ .ldVxK x) (h : exec i s = .next t) :
    exec i (s.withPorts r k c) = .next (t.withPorts r k c) := by
  cases i
  case rnd x nn =>
    obtain rfl := hrnd.resolve_right fun hne => hne x nn rfl
    cases h; rfl
  case skp x =>
    obtain rfl := hkeys.resolve_right fun hne => (hne x).1 rfl
    cases h; rfl
  case sknp x =>
    obtain rfl := hkeys.resolve_right fun hne => (hne x).2.1 rfl
    cases h; rfl
  case ldVxK x =>
    obtain rfl := hkeys.resolve_right fun hne => (hne x).2.2 rfl
    by_cases hup : s.keys = 0#16
    · rw [exec_ldVxK_of_up x hup] at h
      cases h; exact exec_ldVxK_of_up x hup
    · rw [exec_ldVxK_of_down x hup] at h
      cases h; exact exec_ldVxK_of_down x hup
  case ret =>
    by_cases hheld : 0 < s.sp.val
    · rw [exec_ret_of_held hheld] at h
      cases h; exact exec_ret_of_held (s := s.withPorts r k c) hheld
    · rw [exec_ret_of_empty hheld] at h
      cases h; exact exec_ret_of_empty (s := s.withPorts r k c) hheld
  case call nnn =>
    by_cases hroom : s.sp.val < 16
    · rw [exec_call_of_room nnn hroom] at h
      cases h; exact exec_call_of_room (s := s.withPorts r k c) nnn hroom
    · rw [exec_call_of_full nnn hroom] at h
      cases h; exact exec_call_of_full (s := s.withPorts r k c) nnn hroom
  case drw x y n =>
    rw [exec_drw] at h ⊢
    cases h; rfl
  case storeRegs x =>
    cases h
    rw [exec_storeRegs, State.storeBlock_withPorts]
  case loadRegs x =>
    cases h
    rw [exec_loadRegs, State.loadBlock_withPorts]
  all_goals cases h; rfl

end Sys2Proof

/-- Settles O19: each field is read off the instruction's frame; a field's writers are shut out by its premise. -/
theorem otherStateChangesOnlyByItsWriters : Obligations.OtherStateChangesOnlyByItsWriters := by
  intro i s t h
  have hhost := exec_keeps_host_fields h
  exact ⟨exec_I_of_no_write h, exec_stack_of_no_write h, exec_sp_of_no_write h, exec_dt_of_no_write h,
    exec_st_of_no_write h, exec_fb_of_no_write h, exec_pc_of_no_write h, exec_keys h, exec_lastTick h,
    exec_rnd_port h, exec_now h, (congrArg State.inputs hhost :), (congrArg State.stepNo hhost :),
    exec_params h, (congrArg State.loadOpen hhost :)⟩

/-- Settles O20: the random byte is the one port that changes, and only CXNN sees it. -/
theorem randomByteMattersOnlyToRnd : Obligations.RandomByteMattersOnlyToRnd := by
  intro i s t r hi h
  have ht : t.withPorts r s.keys s.now = { t with rnd := r } := by
    rw [← exec_keys h, ← exec_now h]; rfl
  rw [← ht]
  exact exec_withPorts r s.keys s.now (.inr hi) (.inl rfl) h

/-- Settles O21: the key mask is the one port that changes, and only EX9E, EXA1 and FX0A see it. -/
theorem keysMatterOnlyToTheKeyInstructions : Obligations.KeysMatterOnlyToTheKeyInstructions := by
  intro i s t k hi h
  have ht : t.withPorts s.rnd k s.now = { t with keys := k } := by
    rw [← exec_rnd_port h, ← exec_now h]; rfl
  rw [← ht]
  exact exec_withPorts s.rnd k s.now (.inl rfl) (.inr hi) h

/-- Settles O22: the clock is the one port that changes, and no instruction sees it. -/
theorem clockMattersOnlyToTheTimerGate : Obligations.ClockMattersOnlyToTheTimerGate := by
  intro i s t c h
  have ht : t.withPorts s.rnd s.keys c = { t with now := c } := by
    rw [← exec_rnd_port h, ← exec_keys h]; rfl
  rw [← ht]
  exact exec_withPorts s.rnd s.keys c (.inl rfl) (.inl rfl) h
end

section
/-! Steps and runs: every step answers, keeps the invariant, and lets the timers fall as the gate of its clock says
(40_step_cycle.md R125, R128, R129; 10_state.md R26, R27, R31). -/

open Sys2Proof Sys2Proof.Machine

namespace Sys2Proof

/-! ### The invariant -/

/-- An instruction keeps the canonical form of memory: FX33 and FX55 store by `poke`, the others do not store. -/
theorem Machine.exec_keeps_memory_form {i : Instr} {s t : State} (h : exec i s = .next t)
    (hw : Memory.wf s.params.font s.mem = true) : Memory.wf t.params.font t.mem = true := by
  rw [exec_params h]
  rcases storeCount_cases i with hi | ⟨x, rfl⟩ | ⟨x, rfl⟩
  · rw [exec_mem_of_no_store h hi]
    exact hw
  · rw [exec_ldB] at h
    cases h
    exact State.wf_poke (s := (s.poke _ _).poke _ _) _ _ (State.wf_poke (s := s.poke _ _) _ _ (State.wf_poke _ _ hw))
  · rw [exec_storeRegs] at h
    cases h
    exact State.wf_storeBlock _ _ hw

/-- A step keeps good states good: EXECUTE leaves the clock alone, the gate and the host's turn leave memory alone. -/
theorem Machine.good_of_step {s t : State} (hgood : s.Good) (hstep : step s = .next t) : t.Good := by
  obtain ⟨u, hu, rfl⟩ := exec_of_step hstep
  have hclock : u.lastTick ≤ u.now := by
    rw [exec_lastTick hu, exec_now hu]
    exact hgood.clock
  have hwidth : u.now < 2 ^ u.params.timeBits := by
    rw [exec_now hu, exec_params hu]
    exact hgood.width
  obtain ⟨hclock', hwidth'⟩ := State.finish_clock hclock hwidth
  have hmem : Memory.wf u.params.font u.mem = true := exec_keeps_memory_form hu hgood.memWf
  exact ⟨hmem, hclock', hwidth'⟩

/-- No step changes the parameters (10_state.md R33). -/
theorem Machine.step_params {s t : State} (hstep : step s = .next t) : t.params = s.params := by
  obtain ⟨u, hu, rfl⟩ := exec_of_step hstep
  exact (exec_params hu :)

/-! ### Runs -/

/-- A run of `n + 1` steps is one of `n` and a step. -/
theorem Machine.stepTimes_succ {n : Nat} {s t : State} (h : stepTimes (n + 1) s = .next t) :
    ∃ u, stepTimes n s = .next u ∧ step u = .next t := by
  unfold stepTimes at h
  split at h
  · exact ⟨_, ‹_›, h⟩
  · cases h
  · cases h

/-- What every step keeps, a run keeps. -/
theorem Machine.stepTimes_keeps {P : State → Prop} (hkeep : ∀ s t, P s → step s = .next t → P t) {n : Nat} {s t : State}
    (hs : P s) (h : stepTimes n s = .next t) : P t := by
  induction n generalizing t with
  | zero =>
    cases h
    exact hs
  | succ n ih =>
    obtain ⟨u, hu, hstep⟩ := stepTimes_succ h
    exact hkeep u t (ih hu) hstep

/-! ### The gate -/

@[simp] theorem Machine.tickTimer_false (t : Byte) : tickTimer false t = t := by
  rcases tickTimer_cases false t with ⟨h, _⟩ | ⟨h, _⟩
  · exact h
  · cases h

/-- A timer at the gate does not rise, and falls by at most 1. -/
theorem Machine.tickTimer_bounds (f : Bool) (t : Byte) :
    (tickTimer f t).toNat ≤ t.toNat ∧ t.toNat ≤ (tickTimer f t).toNat + 1 := by
  rw [toNat_tickTimer]
  split <;> omega

/-- A timer at the gate of a clock as the protocol gives it (40_step_cycle.md R125). -/
theorem Machine.State.toNat_tickTimer_gateFires {s : State} (hs : s.ClockOk) (period : Nat) (t : Byte) :
    (tickTimer (s.gateFires period) t).toNat = if s.PeriodOver period then t.toNat - 1 else t.toNat := by
  rw [toNat_tickTimer, State.gateFires_eq period hs.clock hs.width]
  simp only [decide_eq_true_eq]

/-- The gate as the spec says it (40_step_cycle.md R125; D14, D20). -/
theorem Machine.State.gateTicks_timerGateAt {s : State} (hs : s.ClockOk) (period : Nat) :
    GateTicks period s (s.timerGateAt period) := by
  have hfires := State.gateFires_eq period hs.clock hs.width
  constructor
  · intro hnot
    rw [decide_eq_false hnot] at hfires
    simp [State.timerGateAt, hfires]
  · intro hover
    refine ⟨?_, ?_, ?_⟩
    · rw [State.timerGateAt_dt, State.toNat_tickTimer_gateFires hs, if_pos hover]
    · rw [State.timerGateAt_st, State.toNat_tickTimer_gateFires hs, if_pos hover]
    · rw [decide_eq_true hover] at hfires
      simp [State.timerGateAt, hfires]

/-! ### The timers over a step -/

section
variable {s t : State} (hstep : step s = .next t)
include hstep

/-- The gate of a step decides by the clock the step began with; what it does to the timers EXECUTE left
(40_step_cycle.md R125). -/
theorem Machine.step_gate :
    ∃ u, exec (decodeWord s.fetchWord) s.fetched = .next u ∧
      t.dt = tickTimer (s.gateFires s.params.tickPeriod) u.dt ∧
      t.st = tickTimer (s.gateFires s.params.tickPeriod) u.st ∧
      t.lastTick = if s.gateFires s.params.tickPeriod then s.now else s.lastTick := by
  obtain ⟨u, hu, rfl⟩ := exec_of_step hstep
  have hfires : u.gateFires u.params.tickPeriod = s.gateFires s.params.tickPeriod := by
    rw [State.gateFires, exec_now hu, exec_lastTick hu, exec_params hu]
    rfl
  refine ⟨u, hu, ?_, ?_, ?_⟩
  · rw [← hfires]; rfl
  · rw [← hfires]; rfl
  · have hnow : u.now = s.now := (exec_now hu :)
    have hlast : u.lastTick = s.lastTick := (exec_lastTick hu :)
    rw [← hfires, ← hnow, ← hlast]; rfl

theorem Machine.step_dt_of_no_write (hi : ∀ x, decodeWord s.fetchWord ≠ .ldDtVx x) :
    t.dt = tickTimer (s.gateFires s.params.tickPeriod) s.dt := by
  obtain ⟨u, hu, hdt, -, -⟩ := step_gate hstep
  rw [hdt, exec_dt_of_no_write hu hi, State.fetched_dt]

theorem Machine.step_st_of_no_write (hi : ∀ x, decodeWord s.fetchWord ≠ .ldStVx x) :
    t.st = tickTimer (s.gateFires s.params.tickPeriod) s.st := by
  obtain ⟨u, hu, -, hst, -⟩ := step_gate hstep
  rw [hst, exec_st_of_no_write hu hi, State.fetched_st]

theorem Machine.step_lastTick (hs : s.ClockOk) :
    t.lastTick = if s.PeriodOver s.params.tickPeriod then s.now else s.lastTick := by
  obtain ⟨u, -, -, -, hlast⟩ := step_gate hstep
  rw [hlast, State.gateFires_eq _ hs.clock hs.width]
  simp only [decide_eq_true_eq]

/-- A timer that only the gate moves in this step falls by no more than the time between two firings pays for. -/
theorem Machine.timer_fall_of_step {timer : State → Byte} (hs : s.ClockOk)
    (htimer : timer t = tickTimer (s.gateFires s.params.tickPeriod) (timer s)) :
    (timer t).toNat ≤ (timer s).toNat ∧
      (timer s).toNat * s.params.tickPeriod + s.lastTick ≤ (timer t).toNat * s.params.tickPeriod + t.lastTick := by
  obtain ⟨hle, hfall⟩ := tickTimer_bounds (s.gateFires s.params.tickPeriod) (timer s)
  rw [← htimer] at hle hfall
  refine ⟨hle, ?_⟩
  have hvalue := State.toNat_tickTimer_gateFires hs s.params.tickPeriod (timer s)
  rw [← htimer] at hvalue
  rw [step_lastTick hstep hs]
  split
  case isTrue hover =>
    have hmul := Nat.mul_le_mul_right s.params.tickPeriod hfall
    rw [Nat.add_mul, Nat.one_mul] at hmul
    omega
  case isFalse hnot =>
    rw [hvalue, if_neg hnot]

end

/-- A timer that only the gate moves in a run falls by no more than the time between its first and last firing pays for. -/
theorem Machine.timer_fall_of_run {timer : State → Byte} {n : Nat} {s t : State} (hs : s.Good)
    (h : stepTimes n s = .next t)
    (htimer : ∀ k u v, k < n → stepTimes k s = .next u → step u = .next v →
      timer v = tickTimer (u.gateFires u.params.tickPeriod) (timer u)) :
    (timer t).toNat ≤ (timer s).toNat ∧
      (timer s).toNat * s.params.tickPeriod + s.lastTick ≤ (timer t).toNat * s.params.tickPeriod + t.lastTick := by
  induction n generalizing t with
  | zero =>
    cases h
    exact ⟨Nat.le_refl _, Nat.le_refl _⟩
  | succ n ih =>
    obtain ⟨u, hu, hstep⟩ := stepTimes_succ h
    obtain ⟨hle, hfall⟩ := ih hu fun k v w hk => htimer k v w (Nat.lt_succ_of_lt hk)
    have hgood : u.Good := stepTimes_keeps (P := State.Good) (fun _ _ => good_of_step) hs hu
    have hparams : u.params = s.params :=
      stepTimes_keeps (P := fun v => v.params = s.params) (fun _ _ hv hvw => (step_params hvw).trans hv) rfl hu
    obtain ⟨hle', hfall'⟩ := timer_fall_of_step hstep (State.clockOk_of_good hgood)
      (htimer n u t (Nat.lt_succ_self n) hu hstep)
    rw [hparams] at hfall'
    exact ⟨hle'.trans hle, hfall.trans hfall'⟩

end Sys2Proof

/-- Settles O8: EXECUTE answers for every instruction, so the step does. -/
theorem everyStepAnswersNext : Obligations.EveryStepAnswersNext := by
  intro s
  obtain ⟨t, ht⟩ := exec_answers (decodeWord s.fetchWord) s.fetched
  exact ⟨t.finish, step_of_exec ht⟩

/-- Settles O9: EXECUTE keeps the memory's form, the gate and the host's turn the order and the width of the clock. -/
theorem stepKeepsGoodStates : Obligations.StepKeepsGoodStates := by
  intro s t hgood hstep
  exact good_of_step hgood hstep

/-- Settles O12: where the clock is as the protocol gives it, the gate's difference is the time passed, for every period. -/
theorem timerGateTicksBothTimersTogether : Obligations.TimerGateTicksBothTimersTogether := by
  intro s hs
  refine ⟨State.gateTicks_timerGateAt hs, State.gateTicks_timerGateAt hs _, Nat.le_add_left 1 _, ?_⟩
  intro n hn
  rw [Params.tickPeriod, hn, Option.getD_some]

/-- Settles O13: a timer the instruction does not write is moved by the gate alone, which decides by the clock at the start
of the step. -/
theorem timersFallByAtMostOnePerStep : Obligations.TimersFallByAtMostOnePerStep := by
  intro s t hstep
  refine ⟨fun hi => ?_, fun hi => ?_, fun hs => ⟨step_lastTick hstep hs, fun hi => ?_, fun hi => ?_⟩⟩
  · rw [step_dt_of_no_write hstep hi]
    exact tickTimer_bounds _ _
  · rw [step_st_of_no_write hstep hi]
    exact tickTimer_bounds _ _
  · rw [step_dt_of_no_write hstep hi, State.toNat_tickTimer_gateFires hs]
  · rw [step_st_of_no_write hstep hi, State.toNat_tickTimer_gateFires hs]

/-- Settles O14: by induction on the length of the run, each step of which pays for the fall of a timer by the way of
`last_tick`; the states on the way are good, so the gate's difference is the time passed. -/
theorem timersFallAtMostOncePerPeriod : Obligations.TimersFallAtMostOncePerPeriod := by
  intro n s t hs h
  have hgood : t.Good := stepTimes_keeps (P := State.Good) (fun _ _ => good_of_step) hs h
  refine ⟨hgood.clock, fun hi => ?_, fun hi => ?_⟩
  · exact timer_fall_of_run (timer := State.dt) hs h fun k u v hk hu huv =>
      step_dt_of_no_write huv fun x => hi k u x hk hu
  · exact timer_fall_of_run (timer := State.st) hs h fun k u v hk hu huv =>
      step_st_of_no_write huv fun x => hi k u x hk hu
end

section
/-! The encoding: encoding then decoding, decoding then encoding, the opcode map as a first match, and the words without an
assignment (30_encoding.md R91, R93 to R97). -/

open Sys2Proof Sys2Proof.Machine

namespace Sys2Proof

/-! ### Encoding then decoding -/

/-- The word of a well-formed instruction decodes to it. -/
theorem decodeWord_encodeWord {i : Instr} (hwf : i.wf = true) : decodeWord (encodeWord i) = i := by
  cases i with
  | cls => exact Laws.RoundTrip.cls hwf
  | ret => exact Laws.RoundTrip.ret hwf
  | sys nnn => exact Laws.RoundTrip.sys nnn hwf
  | jp nnn => exact Laws.RoundTrip.jp nnn hwf
  | call nnn => exact Laws.RoundTrip.call nnn hwf
  | seImm x nn => exact Laws.RoundTrip.seImm x nn hwf
  | sneImm x nn => exact Laws.RoundTrip.sneImm x nn hwf
  | seReg x y => exact Laws.RoundTrip.seReg x y hwf
  | unassigned5 x y n => exact Laws.RoundTrip.unassigned5 x y n hwf
  | ldImm x nn => exact Laws.RoundTrip.ldImm x nn hwf
  | addImm x nn => exact Laws.RoundTrip.addImm x nn hwf
  | ldReg x y => exact Laws.RoundTrip.ldReg x y hwf
  | orReg x y => exact Laws.RoundTrip.orReg x y hwf
  | andReg x y => exact Laws.RoundTrip.andReg x y hwf
  | xorReg x y => exact Laws.RoundTrip.xorReg x y hwf
  | addReg x y => exact Laws.RoundTrip.addReg x y hwf
  | subReg x y => exact Laws.RoundTrip.subReg x y hwf
  | shr x y => exact Laws.RoundTrip.shr x y hwf
  | subnReg x y => exact Laws.RoundTrip.subnReg x y hwf
  | shl x y => exact Laws.RoundTrip.shl x y hwf
  | unassigned8 x y n => exact Laws.RoundTrip.unassigned8 x y n hwf
  | sneReg x y => exact Laws.RoundTrip.sneReg x y hwf
  | unassigned9 x y n => exact Laws.RoundTrip.unassigned9 x y n hwf
  | ldI nnn => exact Laws.RoundTrip.ldI nnn hwf
  | jpV0 nnn => exact Laws.RoundTrip.jpV0 nnn hwf
  | rnd x nn => exact Laws.RoundTrip.rnd x nn hwf
  | drw x y n => exact Laws.RoundTrip.drw x y n hwf
  | skp x => exact Laws.RoundTrip.skp x hwf
  | sknp x => exact Laws.RoundTrip.sknp x hwf
  | unassignedE x nn => exact Laws.RoundTrip.unassignedE x nn hwf
  | ldVxDt x => exact Laws.RoundTrip.ldVxDt x hwf
  | ldVxK x => exact Laws.RoundTrip.ldVxK x hwf
  | ldDtVx x => exact Laws.RoundTrip.ldDtVx x hwf
  | ldStVx x => exact Laws.RoundTrip.ldStVx x hwf
  | addI x => exact Laws.RoundTrip.addI x hwf
  | ldF x => exact Laws.RoundTrip.ldF x hwf
  | ldB x => exact Laws.RoundTrip.ldB x hwf
  | storeRegs x => exact Laws.RoundTrip.storeRegs x hwf
  | loadRegs x => exact Laws.RoundTrip.loadRegs x hwf
  | unassignedF x nn => exact Laws.RoundTrip.unassignedF x nn hwf

/-! ### The sixteen groups -/

/-- DECODE by the top four bits, one case per group (30_encoding.md R93). -/
theorem decodeWord_cases {w : Word16} {motive : Instr → Prop}
    (g0 : fieldTop w = 0x0 → motive (decode0 w))
    (g1 : fieldTop w = 0x1 → motive (.jp (fieldNNN w)))
    (g2 : fieldTop w = 0x2 → motive (.call (fieldNNN w)))
    (g3 : fieldTop w = 0x3 → motive (.seImm (fieldX w) (fieldNN w)))
    (g4 : fieldTop w = 0x4 → motive (.sneImm (fieldX w) (fieldNN w)))
    (g5 : fieldTop w = 0x5 → motive (decode5 w))
    (g6 : fieldTop w = 0x6 → motive (.ldImm (fieldX w) (fieldNN w)))
    (g7 : fieldTop w = 0x7 → motive (.addImm (fieldX w) (fieldNN w)))
    (g8 : fieldTop w = 0x8 → motive (decode8 w))
    (g9 : fieldTop w = 0x9 → motive (decode9 w))
    (gA : fieldTop w = 0xA → motive (.ldI (fieldNNN w)))
    (gB : fieldTop w = 0xB → motive (.jpV0 (fieldNNN w)))
    (gC : fieldTop w = 0xC → motive (.rnd (fieldX w) (fieldNN w)))
    (gD : fieldTop w = 0xD → motive (.drw (fieldX w) (fieldY w) (fieldN w)))
    (gE : fieldTop w = 0xE → motive (decodeE w))
    (gF : fieldTop w = 0xF → motive (decodeF w)) :
    motive (decodeWord w) := by
  unfold decodeWord
  split
  next ht => exact g0 (Fin.ext ht)
  next ht => exact g1 (Fin.ext ht)
  next ht => exact g2 (Fin.ext ht)
  next ht => exact g3 (Fin.ext ht)
  next ht => exact g4 (Fin.ext ht)
  next ht => exact g5 (Fin.ext ht)
  next ht => exact g6 (Fin.ext ht)
  next ht => exact g7 (Fin.ext ht)
  next ht => exact g8 (Fin.ext ht)
  next ht => exact g9 (Fin.ext ht)
  next ht => exact gA (Fin.ext ht)
  next ht => exact gB (Fin.ext ht)
  next ht => exact gC (Fin.ext ht)
  next ht => exact gD (Fin.ext ht)
  next ht => exact gE (Fin.ext ht)
  next =>
    refine gF (Fin.ext ?_)
    show (fieldTop w).val = 15
    have hlt := (fieldTop w).isLt
    simp only [imp_false] at *
    omega

/-! ### Decoding then encoding, group by group -/

section
variable {w : Word16} {t : Nibble} (ht : fieldTop w = t.toFin)
include ht

/-- A word of group `t` with sub-selector `n` is the pattern of the nibble view. -/
theorem wordXYN_fields {n : Nibble} (hn : fieldN w = n) : wordXYN t (fieldX w) (fieldY w) n = w := by
  conv => rhs; rw [word_eq_wordXYN w, ht, hn]

/-- A word of group `t` with sub-selector `nn` is the pattern of the byte view. -/
theorem wordXNN_fields {nn : Byte} (hnn : fieldNN w = nn) : wordXNN t (fieldX w) nn = w := by
  conv => rhs; rw [word_eq_wordXNN w, ht, hnn]

/-- A word of group `t` is the pattern of the address view. -/
theorem wordNNN_fields : wordNNN t (fieldNNN w) = w := by
  conv => rhs; rw [word_eq_wordNNN w, ht]

end

/-- `i` is well formed and `w` its word. -/
def IsWordOf (w : Word16) (i : Instr) : Prop := i.wf = true ∧ encodeWord i = w

section
variable {w : Word16}

theorem isWordOf_decode0 (ht : fieldTop w = 0x0) : IsWordOf w (decode0 w) := by
  have hw : wordNNN 0x0#4 (fieldNNN w) = w := wordNNN_fields ht
  unfold decode0
  split
  case isTrue hcls => exact ⟨rfl, hcls.symm⟩
  case isFalse hcls =>
    split
    case isTrue hret => exact ⟨rfl, hret.symm⟩
    case isFalse hret =>
      have hne0 : fieldNNN w ≠ 0x0E0#12 := fun h => hcls (by rw [← hw, h]; rfl)
      have hneE : fieldNNN w ≠ 0x0EE#12 := fun h => hret (by rw [← hw, h]; rfl)
      exact ⟨by simp [Instr.wf, hne0, hneE], hw⟩

theorem isWordOf_decode5 (ht : fieldTop w = 0x5) : IsWordOf w (decode5 w) := by
  unfold decode5
  split
  case isTrue hn => exact ⟨rfl, wordXYN_fields ht hn⟩
  case isFalse hn => exact ⟨bne_iff_ne.2 hn, wordXYN_fields ht rfl⟩

theorem isWordOf_decode8 (ht : fieldTop w = 0x8) : IsWordOf w (decode8 w) := by
  simp only [decode8]
  iterate 9
    split
    · exact ⟨rfl, wordXYN_fields ht ‹_›⟩
  exact ⟨by simp [Instr.wf, assigned8, *], wordXYN_fields ht rfl⟩

theorem isWordOf_decode9 (ht : fieldTop w = 0x9) : IsWordOf w (decode9 w) := by
  unfold decode9
  split
  case isTrue hn => exact ⟨rfl, wordXYN_fields ht hn⟩
  case isFalse hn => exact ⟨bne_iff_ne.2 hn, wordXYN_fields ht rfl⟩

theorem isWordOf_decodeE (ht : fieldTop w = 0xE) : IsWordOf w (decodeE w) := by
  unfold decodeE
  iterate 2
    split
    · exact ⟨rfl, wordXNN_fields ht ‹_›⟩
  exact ⟨by simp [Instr.wf, assignedE, *], wordXNN_fields ht rfl⟩

theorem isWordOf_decodeF (ht : fieldTop w = 0xF) : IsWordOf w (decodeF w) := by
  simp only [decodeF]
  iterate 9
    split
    · exact ⟨rfl, wordXNN_fields ht ‹_›⟩
  exact ⟨by simp [Instr.wf, assignedF, *], wordXNN_fields ht rfl⟩

/-- Every word is the word of what it decodes to. -/
theorem isWordOf_decodeWord (w : Word16) : IsWordOf w (decodeWord w) := by
  apply decodeWord_cases
  case g0 => exact isWordOf_decode0
  case g5 => exact isWordOf_decode5
  case g8 => exact isWordOf_decode8
  case g9 => exact isWordOf_decode9
  case gE => exact isWordOf_decodeE
  case gF => exact isWordOf_decodeF
  case g1 | g2 | gA | gB => exact fun ht => ⟨rfl, wordNNN_fields ht⟩
  case g3 | g4 | g6 | g7 | gC => exact fun ht => ⟨rfl, wordXNN_fields ht rfl⟩
  case gD => exact fun ht => ⟨rfl, wordXYN_fields ht rfl⟩

end

/-! ### The unassigned words -/

section
variable {w : Word16}

theorem isUnassigned_decode0 : (decode0 w).isUnassigned = false := by
  unfold decode0
  split
  · rfl
  · split <;> rfl

theorem isUnassigned_decode5 : (decode5 w).isUnassigned = true ↔ fieldN w ≠ 0x0#4 := by
  unfold decode5
  split <;> simp [Instr.isUnassigned, *]

theorem isUnassigned_decode8 : (decode8 w).isUnassigned = true ↔ fieldN w ∉ assigned8 := by
  simp only [decode8]
  iterate 9
    split
    · simp [Instr.isUnassigned, assigned8, *]
  simp [Instr.isUnassigned, assigned8, *]

/-- The sub-selectors of group 8 without an assignment are 8 to D and F (30_encoding.md R96). -/
theorem notMem_assigned8_iff :
    ∀ n : Nibble, n ∉ assigned8 ↔ n ∈ [0x8#4, 0x9#4, 0xA#4, 0xB#4, 0xC#4, 0xD#4, 0xF#4] := by decide

theorem isUnassigned_decode9 : (decode9 w).isUnassigned = true ↔ fieldN w ≠ 0x0#4 := by
  unfold decode9
  split <;> simp [Instr.isUnassigned, *]

theorem isUnassigned_decodeE : (decodeE w).isUnassigned = true ↔ fieldNN w ∉ assignedE := by
  unfold decodeE
  iterate 2
    split
    · simp [Instr.isUnassigned, assignedE, *]
  simp [Instr.isUnassigned, assignedE, *]

theorem isUnassigned_decodeF : (decodeF w).isUnassigned = true ↔ fieldNN w ∉ assignedF := by
  simp only [decodeF]
  iterate 9
    split
    · simp [Instr.isUnassigned, assignedF, *]
  simp [Instr.isUnassigned, assignedF, *]

end

/-! ### The opcode map -/

/-- Masking with four nibbles compares nibble by nibble. -/
theorem and_ofNibbles_eq_iff (w c : Word16) (ma mb mc md : Nibble) :
    w &&& ofNibbles ma mb mc md = c ↔
      w.extractLsb' 12 4 &&& ma = c.extractLsb' 12 4 ∧ w.extractLsb' 8 4 &&& mb = c.extractLsb' 8 4 ∧
        w.extractLsb' 4 4 &&& mc = c.extractLsb' 4 4 ∧ fieldN w &&& md = fieldN c := by
  conv => lhs; rw [word_eq_ofNibbles w, word_eq_ofNibbles c]
  rw [ofNibbles_and, ofNibbles_inj]

@[simp] theorem nibble_and_ones (n : Nibble) : n &&& 0xF#4 = n := BitVec.and_allOnes

/-! The rows' four masks: what each compares, of a row whose code has no bit outside its mask (30_encoding.md R94). -/

section
variable {c : Word16} (b : Word16 → Instr) (w : Word16)

@[simp] theorem selects_maskF000 (hc : c &&& 0xF000#16 = c) :
    (OpcodeRow.mk 0xF000#16 c b).selects w = true ↔ (fieldTop w).val = c.toNat / 4096 := by
  have hm : 0xF000#16 = ofNibbles 0xF#4 0x0#4 0x0#4 0x0#4 := by decide
  rw [hm, and_ofNibbles_eq_iff] at hc
  rw [OpcodeRow.selects, beq_iff_eq, hm, and_ofNibbles_eq_iff]
  simp only [BitVec.and_zero, nibble_and_ones, true_and] at hc ⊢
  rw [and_iff_left hc, fieldTop_val, ← BitVec.toNat_inj, toNat_field, toNat_field]
  have := c.isLt
  omega

@[simp] theorem selects_maskF00F (hc : c &&& 0xF00F#16 = c) :
    (OpcodeRow.mk 0xF00F#16 c b).selects w = true ↔
      (fieldTop w).val = c.toNat / 4096 ∧ fieldN w = c.setWidth 4 := by
  have hm : 0xF00F#16 = ofNibbles 0xF#4 0x0#4 0x0#4 0xF#4 := by decide
  rw [hm, and_ofNibbles_eq_iff] at hc
  rw [OpcodeRow.selects, beq_iff_eq, hm, and_ofNibbles_eq_iff]
  simp only [BitVec.and_zero, nibble_and_ones, true_and, and_true] at hc ⊢
  obtain ⟨hc8, hc4⟩ := hc
  rw [← hc8, ← hc4, fieldTop_val, ← BitVec.toNat_inj, ← BitVec.toNat_inj, ← BitVec.toNat_inj, ← BitVec.toNat_inj,
    toNat_field, toNat_field, fieldN_toNat, fieldN_toNat, BitVec.toNat_setWidth]
  have := c.isLt
  omega

@[simp] theorem selects_maskF0FF (hc : c &&& 0xF0FF#16 = c) :
    (OpcodeRow.mk 0xF0FF#16 c b).selects w = true ↔
      (fieldTop w).val = c.toNat / 4096 ∧ fieldNN w = c.setWidth 8 := by
  have hm : 0xF0FF#16 = ofNibbles 0xF#4 0x0#4 0xF#4 0xF#4 := by decide
  rw [hm, and_ofNibbles_eq_iff] at hc
  rw [OpcodeRow.selects, beq_iff_eq, hm, and_ofNibbles_eq_iff]
  simp only [BitVec.and_zero, nibble_and_ones, true_and, and_true] at hc ⊢
  simp only [hc, true_and]
  rw [fieldTop_val, ← BitVec.toNat_inj, ← BitVec.toNat_inj, ← BitVec.toNat_inj, ← BitVec.toNat_inj, toNat_field,
    toNat_field, toNat_field, toNat_field, fieldN_toNat, fieldN_toNat, fieldNN_toNat, BitVec.toNat_setWidth]
  have := c.isLt
  omega

@[simp] theorem selects_maskFFFF :
    (OpcodeRow.mk 0xFFFF#16 c b).selects w = true ↔ (fieldTop w).val = c.toNat / 4096 ∧ w = c := by
  have hm : 0xFFFF#16 = BitVec.allOnes 16 := by decide
  rw [OpcodeRow.selects, beq_iff_eq, hm, BitVec.and_allOnes]
  refine ⟨?_, fun h => h.2⟩
  rintro rfl
  refine ⟨?_, rfl⟩
  rw [fieldTop_val]
  have := w.isLt
  omega

end

/-- What the first matching row of a table builds (30_encoding.md R93). -/
def firstMatch (rows : List OpcodeRow) (w : Word16) : Option Instr :=
  (rows.find? fun r => r.selects w).map fun r => r.build w

@[simp] theorem firstMatch_cons (m c : Word16) (b : Word16 → Instr) (rows : List OpcodeRow) (w : Word16) :
    firstMatch (⟨m, c, b⟩ :: rows) w =
      if (OpcodeRow.mk m c b).selects w = true then some (b w) else firstMatch rows w := by
  rw [firstMatch, List.find?_cons]
  cases (OpcodeRow.mk m c b).selects w <;> rfl

/-- The decoder builds what the first matching row builds: the conditions of the group's rows are those of its sub-decoder,
in the same order. -/
theorem firstMatch_opcodeTable (w : Word16) : firstMatch opcodeTable w = some (decodeWord w) := by
  simp only [opcodeTable, opcodeRows07, opcodeRows89, opcodeRowsAE, opcodeRowsF, List.cons_append, List.nil_append,
    firstMatch_cons]
  apply decodeWord_cases (motive := fun i => _ = some i) <;> intro ht
  case g0 => simp [ht, decode0, apply_ite some]
  case g5 => simp [ht, decode5, apply_ite some]
  case g8 => simp [ht, decode8, apply_ite some]
  case g9 => simp [ht, decode9, apply_ite some]
  case gE => simp [ht, decodeE, apply_ite some]
  case gF => simp [ht, decodeF, apply_ite some]
  all_goals simp [ht]

end Sys2Proof

/-- Settles O1: the two bytes are put together again to the word, which decodes to the instruction. -/
theorem decodeOfEncodeIsTheInstruction : Obligations.DecodeOfEncodeIsTheInstruction := by
  intro i rest hwf
  have hword : decode (encode i ++ rest) = .ok (decodeWord (highByte (encodeWord i) ++ lowByte (encodeWord i)), rest) := rfl
  rw [hword, highByte_append_lowByte, decodeWord_encodeWord hwf]

/-- Settles O2: group by group, what a word decodes to puts the word's own fields back in their places. -/
theorem everyWordIsOneInstruction : Obligations.EveryWordIsOneInstruction := isWordOf_decodeWord

/-- Settles O5: by the group of the word; only five groups have sub-selectors without an assignment. -/
theorem unassignedWordsAreTheFiveClasses : Obligations.UnassignedWordsAreTheFiveClasses := by
  intro w
  apply decodeWord_cases (motive := fun i => i.isUnassigned = true ↔ _) <;> intro ht
  case g0 => simp [ht, isUnassigned_decode0]
  case g5 => simp [ht, isUnassigned_decode5]
  case g8 => simp [ht, isUnassigned_decode8, notMem_assigned8_iff]
  case g9 => simp [ht, isUnassigned_decode9]
  case gE => simp [ht, isUnassigned_decodeE, assignedE]
  case gF => simp [ht, isUnassigned_decodeF, assignedF]
  all_goals simp [ht, Instr.isUnassigned]

/-- Settles O3: the row is the one whose build the first match is. -/
theorem firstMatchingRowDecodes : Obligations.FirstMatchingRowDecodes := by
  intro w
  obtain ⟨r, hr, hbuild⟩ := Option.map_eq_some_iff.1 (firstMatch_opcodeTable w)
  exact ⟨r, hr, hbuild.symm⟩

/-- Settles O6: the nine words, each decoded. -/
theorem writtenOutWordsDecode : Obligations.WrittenOutWordsDecode := by
  unfold Obligations.WrittenOutWordsDecode
  decide
end

section
/-! What a step is, what it reports, and what an instruction leaves of the registers and of memory (40_step_cycle.md R120
to R130; 60_exceptions.md R210 to R215; 10_state.md R20, R22; 20_memory.md R64, R67). -/

open Sys2Proof Sys2Proof.Machine

namespace Sys2Proof

/-! ### Reports -/

/-- What an instruction reports in the state EXECUTE begins in (60_exceptions.md R211 to R213). -/
def Machine.reportOf (i : Instr) (s : State) : Report :=
  match i with
  | .call _ => if s.sp.val < 16 then .none else .stackOverflow
  | .ret => if 0 < s.sp.val then .none else .stackUnderflow
  | .unassigned5 _ _ _ | .unassigned8 _ _ _ | .unassigned9 _ _ _ | .unassignedE _ _ | .unassignedF _ _ => .unknownOpcode
  | _ => .none

/-- An instruction that reports does nothing else (60_exceptions.md R215). -/
theorem Machine.exec_of_report {i : Instr} {s : State} (hr : reportOf i s ≠ .none) :
    exec i s = .next (s.report (reportOf i s)) := by
  cases i
  case call nnn =>
    have hfull : ¬ s.sp.val < 16 := fun hroom => hr (if_pos hroom)
    rw [exec_call_of_full nnn hfull, reportOf, if_neg hfull]
  case ret =>
    have hempty : ¬ 0 < s.sp.val := fun hheld => hr (if_pos hheld)
    rw [exec_ret_of_empty hempty, reportOf, if_neg hempty]
  case unassigned5 | unassigned8 | unassigned9 | unassignedE | unassignedF => rfl
  all_goals exact absurd rfl hr

/-- An instruction that does not report leaves the output as the fetch left it. -/
theorem Machine.exec_err_of_no_report {i : Instr} {s t : State} (hr : reportOf i s = .none) (h : exec i s = .next t) :
    t.err = s.err := by
  cases i
  case call nnn =>
    have hroom : s.sp.val < 16 := by
      by_contra hfull
      rw [reportOf, if_neg hfull] at hr
      cases hr
    rw [exec_call_of_room nnn hroom] at h
    cases h; rfl
  case ret =>
    have hheld : 0 < s.sp.val := by
      by_contra hempty
      rw [reportOf, if_neg hempty] at hr
      cases hr
    rw [exec_ret_of_held hheld] at h
    cases h; rfl
  case unassigned5 | unassigned8 | unassigned9 | unassignedE | unassignedF => cases hr
  all_goals rw [exec_frame h]; rfl

/-- A step reports what its instruction reports. -/
theorem Machine.step_err {s t : State} (hstep : step s = .next t) :
    t.err = reportOf (decodeWord s.fetchWord) s.fetched := by
  obtain ⟨u, hu, rfl⟩ := exec_of_step hstep
  show u.err = _
  by_cases hr : reportOf (decodeWord s.fetchWord) s.fetched = .none
  · rw [hr, exec_err_of_no_report hr hu, State.fetched_err]
  · rw [exec_of_report hr] at hu
    cases hu; rfl

section
variable (i : Instr) (s : State)

theorem Machine.reportOf_eq_stackOverflow :
    reportOf i s = .stackOverflow ↔ (∃ nnn, i = .call nnn) ∧ s.sp.val = 16 := by
  cases i
  case call nnn =>
    have hlt := s.sp.isLt
    rw [reportOf, and_iff_right ⟨nnn, rfl⟩]
    split
    · exact iff_of_false nofun (by omega)
    · exact iff_of_true rfl (by omega)
  case ret =>
    rw [reportOf]
    split <;> simp
  all_goals simp [reportOf]

theorem Machine.reportOf_eq_stackUnderflow : reportOf i s = .stackUnderflow ↔ i = .ret ∧ s.sp.val = 0 := by
  cases i
  case ret =>
    rw [reportOf, and_iff_right rfl]
    split
    · exact iff_of_false nofun (by omega)
    · exact iff_of_true rfl (by omega)
  case call nnn =>
    rw [reportOf]
    split <;> simp
  all_goals simp [reportOf]

theorem Machine.reportOf_eq_unknownOpcode : reportOf i s = .unknownOpcode ↔ i.isUnassigned = true := by
  cases i
  case ret =>
    rw [reportOf]
    split <;> simp [Instr.isUnassigned]
  case call nnn =>
    rw [reportOf]
    split <;> simp [Instr.isUnassigned]
  all_goals simp [reportOf, Instr.isUnassigned]

end

/-- Every kind has a code of its own (60_exceptions.md R210). -/
theorem Machine.Report.code_inj {k k' : Report} : k.code = k'.code ↔ k = k' := by
  cases k <;> cases k' <;> decide

/-! ### Registers and memory kept -/

/-- The registers beside VX and VF after a result in VX and a flag in VF. -/
theorem Machine.State.reg_setReg_setFlag_of_ne (s : State) {x r : RegIdx} (v : Byte) (f : Bool) (hx : r ≠ x) (hF : r ≠ 15) :
    ((s.setReg x v).setFlag f).reg r = s.reg r := by
  rw [State.reg_setFlag, if_neg hF, State.reg_setReg_ne s v hx]

/-- A register that the instruction does not write keeps its value (10_state.md R22). -/
theorem Machine.exec_reg_of_no_write {i : Instr} {s t : State} {r : RegIdx} (h : exec i s = .next t)
    (hr : writesReg i r = false) : t.reg r = s.reg r := by
  cases i
  case ldImm x _ | addImm x _ | ldReg x _ | orReg x _ | andReg x _ | xorReg x _ | rnd x _ | ldVxDt x =>
    cases h
    exact State.reg_setReg_ne s _ (beq_eq_false_iff_ne.1 hr)
  case addReg x _ | subReg x _ | shr x _ | subnReg x _ | shl x _ =>
    cases h
    obtain ⟨hx, hF⟩ := Bool.or_eq_false_iff.1 hr
    exact State.reg_setReg_setFlag_of_ne s _ _ (beq_eq_false_iff_ne.1 hx) (beq_eq_false_iff_ne.1 hF)
  case ldVxK x =>
    by_cases hup : s.keys = 0#16
    · rw [exec_ldVxK_of_up x hup] at h
      cases h; rfl
    · rw [exec_ldVxK_of_down x hup] at h
      cases h
      exact State.reg_setReg_ne s _ (beq_eq_false_iff_ne.1 hr)
  case drw x y n =>
    rw [exec_drw] at h
    cases h
    rw [State.reg_setFlag, if_neg (beq_eq_false_iff_ne.1 hr)]
    rfl
  case loadRegs x =>
    rw [exec_loadRegs] at h
    cases h
    have hlt : ¬ r.val < x.val + 1 := fun hlt => of_decide_eq_false hr (Nat.le_of_lt_succ hlt)
    rw [State.reg_loadBlock, if_neg hlt]
  all_goals rw [exec_frame h]; rfl

/-- A byte that the instruction does not store to keeps its value (20_memory.md R67). -/
theorem Machine.exec_peek_of_no_store {i : Instr} {s t : State} {a : Nat} (h : exec i s = .next t)
    (ha : ¬ StoredTo i s a) : t.peek a = s.peek a := by
  rcases storeCount_cases i with hi | ⟨x, rfl⟩ | ⟨x, rfl⟩
  · exact State.peek_congr (exec_mem_of_no_store h hi) (exec_params h) a
  · have hne : ∀ k, k < 3 → reduceAddr a ≠ reduceAddr (s.dataAddr k) := fun k hk e => ha ⟨k, hk, e.symm⟩
    rw [exec_ldB] at h
    cases h
    rw [State.peek_poke, if_neg (hne 2 (by decide)), State.peek_poke, if_neg (hne 1 (by decide)), State.peek_poke,
      if_neg (hne 0 (by decide))]
  · rw [exec_storeRegs] at h
    cases h
    exact State.peek_storeBlock_other s _ _ a fun k hk e => ha ⟨k, hk, e⟩

end Sys2Proof

/-- Settles O7: the bytes at `pc` decode to the fetched word's instruction, and the state EXECUTE begins in is the fetched one. -/
theorem stepRunsTheDecodedInstruction : Obligations.StepRunsTheDecodedInstruction := by
  intro s i _ hdecode
  rw [decode_at_pc] at hdecode
  have hi : decodeWord s.fetchWord = i := congrArg Prod.fst (Except.ok.inj hdecode)
  rw [step, hi, State.fetched_eq]
  rfl

/-- Settles O15: the report of the step is its instruction's, whose three causes exclude each other. -/
theorem reportsComeOnlyFromTheirInstructions : Obligations.ReportsComeOnlyFromTheirInstructions := by
  intro s t hstep
  have herr := step_err hstep
  refine ⟨?_, ?_, ?_⟩
  · rw [show 1#2 = Report.stackOverflow.code from rfl, Report.code_inj, herr, reportOf_eq_stackOverflow, State.fetched_sp]
  · rw [show 2#2 = Report.stackUnderflow.code from rfl, Report.code_inj, herr, reportOf_eq_stackUnderflow, State.fetched_sp]
  · rw [show 3#2 = Report.unknownOpcode.code from rfl, Report.code_inj, herr, reportOf_eq_unknownOpcode]

/-- Settles O16: an instruction that reports does nothing else, and the next fetch clears the report before anything reads it. -/
theorem reportingStepDropsItsInstruction : Obligations.ReportingStepDropsItsInstruction := by
  intro s t hstep hreport
  refine ⟨?_, everyStepAnswersNext t, rfl⟩
  rw [step_err hstep] at hreport ⊢
  have hdrop := step_of_exec (exec_of_report hreport)
  exact Host.Outcome.next.inj (hstep.symm.trans hdrop)

/-- Settles O17: instruction by instruction, no write of a register reaches another one. -/
theorem registersOutsideTheDestinationsAreKept : Obligations.RegistersOutsideTheDestinationsAreKept := by
  intro i s t r h hr
  exact exec_reg_of_no_write h hr

/-- Settles O18: only FX33 and FX55 store, and a store leaves every other byte alone. -/
theorem memoryOutsideTheStoresIsKept : Obligations.MemoryOutsideTheStoresIsKept := by
  intro i s t a h ha
  exact exec_peek_of_no_store h ha

/-- Settles O51: with no key down FX0A takes back the 2 that the fetch added to `pc`, and does nothing else. -/
theorem keyWaitStepMakesNoProgress : Obligations.KeyWaitStepMakesNoProgress := by
  intro x s hi hup
  have hexec : exec (decodeWord s.fetchWord) s.fetched = .next (s.fetched.setPc (s.fetched.pc - 2#16)) := by
    rw [hi]
    exact exec_ldVxK_of_up x hup
  exact ⟨_, step_of_exec hexec, BitVec.add_sub_cancel s.pc 2#16, rfl, rfl, rfl, rfl, rfl, rfl, rfl⟩

/-- Settles O58: the fetched word is a jump to `pc` itself, so after the step `pc` and the word there are the same again. -/
theorem selfJumpSpinsForever : Obligations.SelfJumpSpinsForever := by
  intro s ⟨hle, hword⟩
  have hjump : decodeWord s.fetchWord = .jp (s.pc.setWidth 12) := by
    rw [hword]
    exact decodeWord_encodeWord (i := .jp (s.pc.setWidth 12)) rfl
  have hexec : exec (decodeWord s.fetchWord) s.fetched = .next (s.fetched.setPc s.pc) := by
    rw [hjump, exec_jp, zext12_setWidth_of_le hle]
  exact ⟨_, step_of_exec hexec, ⟨hle, hword⟩, rfl⟩
end

section
/-! The stack over several instructions, and the skips (41_flow.md R140, R143; 42_skip.md; 46_keys_timers.md R200, R201). -/

open Sys2Proof Sys2Proof.Machine

namespace Sys2Proof

/-! ### A push undone -/

/-- RET after a push and a jump gives `pc` the word pushed, and leaves it in the entry no longer held (41_flow.md R140). -/
theorem Machine.exec_ret_of_push (s : State) (v target : Word16) (hroom : s.sp.val < 16) :
    exec .ret ((s.push v hroom).setPc target) = .next { s with stack := s.stack.set s.sp.val v, pc := v } := by
  have hheld : 0 < ((s.push v hroom).setPc target).sp.val := Nat.succ_pos s.sp.val
  have htop : ((s.push v hroom).setPc target).top hheld = v := Vector.getElem_set_self hroom
  rw [exec_ret_of_held hheld, htop]
  rfl

/-! ### Calls in a row -/

/-- One more time: the instruction on what the times before left. -/
theorem Machine.execTimes_succ {i : Instr} {n : Nat} {s t : State} (h : execTimes i n s = .next t) :
    execTimes i (n + 1) s = exec i t := by
  rw [execTimes, h]

/-- From an empty stack, up to sixteen calls leave as many entries held and report nothing (41_flow.md R143). -/
theorem Machine.execTimes_call_of_le {s : State} (nnn : Addr12) (hempty : s.sp = 0) {k : Nat} (hk : k ≤ 16) :
    ∃ t, execTimes (.call nnn) k s = .next t ∧ t.sp.val = k ∧ t.err = s.err := by
  induction k with
  | zero => exact ⟨s, rfl, by rw [hempty]; rfl, rfl⟩
  | succ k ih =>
    obtain ⟨t, ht, hsp, herr⟩ := ih (Nat.le_of_succ_le hk)
    have hroom : t.sp.val < 16 := by omega
    refine ⟨_, (execTimes_succ ht).trans (exec_call_of_room nnn hroom), ?_, herr⟩
    show t.sp.val + 1 = k + 1
    rw [hsp]

/-! ### Skips -/

/-- A skip moves `pc` on by 2 exactly when its condition holds, and nothing else (42_skip.md R150; D4). -/
theorem Machine.exec_of_skipIf {i : Instr} {s : State} {c : Bool} {p : Prop} [Decidable p]
    (h : exec i s = .next (s.skipIf c)) (hc : c = true ↔ p) :
    ∃ t, exec i s = .next t ∧ OnlyPcDiffers s t ∧
      t.pc.toNat = if p then (s.pc.toNat + 2) % 65536 else s.pc.toNat := by
  refine ⟨_, h, s.onlyPcDiffers_setPc _, ?_⟩
  rw [State.skipIf_pc]
  by_cases hp : p
  · rw [if_pos (hc.2 hp), if_pos hp]
    exact BitVec.toNat_add s.pc 2#16
  · rw [if_neg (mt hc.1 hp), if_neg hp]

/-- The key a register selects is its value modulo 16 (46_keys_timers.md R200; D12). -/
theorem Machine.keyOf_eq_mod (v : Byte) : keyOf v = v.toNat % 16 := by
  rw [keyOf, BitVec.extractLsb'_toNat]
  rfl

end Sys2Proof

/-- Settles O28: what CALL pushes is what RET pops, and it lies above the entries held before. -/
theorem retAfterCallComesBack : Obligations.RetAfterCallComesBack := by
  intro nnn s hroom
  refine ⟨_, _, exec_call_of_room nnn hroom, exec_ret_of_push s s.pc _ hroom, rfl, rfl, fun j hj => ?_, rfl⟩
  exact Vector.getElem_set_ne hroom j.isLt (Nat.ne_of_gt hj)

/-- Settles O29: by induction each of sixteen calls finds room; the seventeenth finds the stack full. -/
theorem seventeenthCallOverflows : Obligations.SeventeenthCallOverflows := by
  intro nnn s hempty
  refine ⟨fun k hk => execTimes_call_of_le nnn hempty hk, ?_⟩
  obtain ⟨t, ht, hsp, -⟩ := execTimes_call_of_le nnn hempty (Nat.le_refl 16)
  have hfull : ¬ t.sp.val < 16 := by omega
  exact ⟨t, ht, (execTimes_succ ht).trans (exec_call_of_full nnn hfull)⟩

/-- Settles O30: each of the four is a skip on its comparison. -/
theorem registerSkips : Obligations.RegisterSkips :=
  ⟨fun _ _ _ => exec_of_skipIf rfl beq_iff_eq, fun _ _ _ => exec_of_skipIf rfl bne_iff_ne,
    fun _ _ _ => exec_of_skipIf rfl beq_iff_eq, fun _ _ _ => exec_of_skipIf rfl bne_iff_ne⟩

/-- Settles O49: each of the two is a skip on the key that the low four bits of VX select. -/
theorem keySkips : Obligations.KeySkips := by
  intro x s
  rw [← keyOf_eq_mod]
  exact ⟨exec_of_skipIf (c := s.keyDown x) rfl Iff.rfl, exec_of_skipIf (c := !s.keyDown x) rfl (by simp [State.keyDown])⟩
end

section
/-! The register writes with a flag, CXNN, FX1E, and the instructions on keys, timers and unassigned words
(43_alu.md R166 to R173; 44_index_memory.md R181; 46_keys_timers.md R203 to R205; 30_encoding.md R97). -/

open Sys2Proof Sys2Proof.Machine

namespace Sys2Proof

/-! ### A result in VX and a flag in VF: the flag stands when X = F (43_alu.md R173) -/

section
variable (s : State) (x : RegIdx) (v : Byte) (f : Bool)

theorem Machine.State.reg_setReg_setFlag_self (hx : x ≠ 15) : ((s.setReg x v).setFlag f).reg x = v := by
  rw [State.reg_setFlag, if_neg hx, State.reg_setReg_self]

theorem Machine.State.regsKeptBut_setReg_setFlag :
    RegsKeptBut (fun r => r = x ∨ r = 15) s ((s.setReg x v).setFlag f) :=
  fun _ hne => s.reg_setReg_setFlag_of_ne v f (fun h => hne (.inl h)) (fun h => hne (.inr h))

theorem Machine.State.onlyRegsDiffer_setReg_setFlag : OnlyRegsDiffer s ((s.setReg x v).setFlag f) :=
  ⟨State.peek_congr rfl rfl, rfl⟩

end

@[simp] theorem Machine.flagByte_decide (p : Prop) [Decidable p] :
    flagByte (decide p) = if p then 1#8 else 0#8 := by
  rw [flagByte]
  simp only [decide_eq_true_eq]

/-- The bit 8XY6 shifts out as a number (43_alu.md R168). -/
theorem Machine.toNat_flagByte_lowBitFlag (a : Byte) : (flagByte (lowBitFlag a)).toNat = a.toNat % 2 := by
  rw [lowBitFlag, BitVec.getLsbD, Nat.testBit_eq_decide_div_mod_eq, flagByte_decide]
  split <;> simp <;> omega

/-- The bit 8XYE shifts out as a number (43_alu.md R170). -/
theorem Machine.toNat_flagByte_highBitFlag (a : Byte) : (flagByte (highBitFlag a)).toNat = a.toNat / 128 := by
  rw [highBitFlag, BitVec.getLsbD, Nat.testBit_eq_decide_div_mod_eq, flagByte_decide]
  have := a.isLt
  split <;> simp <;> omega

/-- A difference of bytes as a number (43_alu.md R172). -/
theorem toNat_sub_byte (a b : Byte) : (a - b).toNat = (a.toNat + 256 - b.toNat) % 256 := by
  rw [BitVec.toNat_sub]
  have := b.isLt
  omega

/-! ### What each instruction does -/

/-- 8XY4 (43_alu.md R166). -/
theorem Machine.exec_addReg (x y : RegIdx) (s : State) :
    exec (.addReg x y) s = .next ((s.setReg x (s.reg x + s.reg y)).setFlag (carryFlag (s.reg x) (s.reg y))) := rfl

/-- 8XY5 (43_alu.md R167). -/
theorem Machine.exec_subReg (x y : RegIdx) (s : State) :
    exec (.subReg x y) s = .next ((s.setReg x (s.reg x - s.reg y)).setFlag (greaterFlag (s.reg x) (s.reg y))) := rfl

/-- 8XY7 (43_alu.md R169). -/
theorem Machine.exec_subnReg (x y : RegIdx) (s : State) :
    exec (.subnReg x y) s = .next ((s.setReg x (s.reg y - s.reg x)).setFlag (greaterFlag (s.reg y) (s.reg x))) := rfl

/-- 8XY6 (43_alu.md R168). -/
theorem Machine.exec_shr (x y : RegIdx) (s : State) :
    exec (.shr x y) s = .next ((s.setReg x (s.reg x >>> 1)).setFlag (lowBitFlag (s.reg x))) := rfl

/-- 8XYE (43_alu.md R170). -/
theorem Machine.exec_shl (x y : RegIdx) (s : State) :
    exec (.shl x y) s = .next ((s.setReg x (s.reg x <<< 1)).setFlag (highBitFlag (s.reg x))) := rfl

/-- CXNN (43_alu.md R171). -/
theorem Machine.exec_rnd (x : RegIdx) (nn : Byte) (s : State) :
    exec (.rnd x nn) s = .next (s.setReg x (s.rnd &&& nn)) := rfl

/-- FX1E (44_index_memory.md R181). -/
theorem Machine.exec_addI (x : RegIdx) (s : State) : exec (.addI x) s = .next (s.setI (s.I + zext8 (s.reg x))) := rfl

/-- FX15 (46_keys_timers.md R204). -/
theorem Machine.exec_ldDtVx (x : RegIdx) (s : State) : exec (.ldDtVx x) s = .next (s.setDt (s.reg x)) := rfl

/-- FX18 (46_keys_timers.md R205). -/
theorem Machine.exec_ldStVx (x : RegIdx) (s : State) : exec (.ldStVx x) s = .next (s.setSt (s.reg x)) := rfl

/-- A report changes nothing beside `err` (60_exceptions.md R215). -/
theorem Machine.State.onlyErrDiffers_report (s : State) (k : Report) : OnlyErrDiffers s (s.report k) :=
  ⟨State.peek_congr rfl rfl, rfl⟩

end Sys2Proof

/-- Settles O35: the byte sum is the sum modulo 256, the flag its carry. -/
theorem addRegistersWithCarry : Obligations.AddRegistersWithCarry := by
  intro x y s
  refine ⟨_, exec_addReg x y s, fun hx => ?_, ?_, s.regsKeptBut_setReg_setFlag x _ _, s.onlyRegsDiffer_setReg_setFlag x _ _⟩
  · rw [State.reg_setReg_setFlag_self _ _ _ _ hx]
    exact BitVec.toNat_add _ _
  · rw [State.reg_setFlag, if_pos rfl, carryFlag, flagByte_decide]

/-- Settles O36: each of the two is a byte difference and the comparison of its operands. -/
theorem subtractRegisters : Obligations.SubtractRegisters := by
  intro x y s
  constructor
  · refine ⟨_, exec_subReg x y s, fun hx => ?_, ?_, s.regsKeptBut_setReg_setFlag x _ _,
      s.onlyRegsDiffer_setReg_setFlag x _ _⟩
    · rw [State.reg_setReg_setFlag_self _ _ _ _ hx, toNat_sub_byte]
    · rw [State.reg_setFlag, if_pos rfl, greaterFlag, flagByte_decide]
  · refine ⟨_, exec_subnReg x y s, fun hx => ?_, ?_, s.regsKeptBut_setReg_setFlag x _ _,
      s.onlyRegsDiffer_setReg_setFlag x _ _⟩
    · rw [State.reg_setReg_setFlag_self _ _ _ _ hx, toNat_sub_byte]
    · rw [State.reg_setFlag, if_pos rfl, greaterFlag, flagByte_decide]

/-- Settles O37: each of the two is a shift of VX by one and the bit shifted out, Y not being used. -/
theorem shiftRegister : Obligations.ShiftRegister := by
  intro x y s
  constructor
  · refine ⟨_, exec_shr x y s, fun hx => ?_, ?_, s.regsKeptBut_setReg_setFlag x _ _, s.onlyRegsDiffer_setReg_setFlag x _ _⟩
    · rw [State.reg_setReg_setFlag_self _ _ _ _ hx, BitVec.toNat_ushiftRight, Nat.shiftRight_eq_div_pow, pow_one]
    · rw [State.reg_setFlag, if_pos rfl, toNat_flagByte_lowBitFlag]
  · refine ⟨_, exec_shl x y s, fun hx => ?_, ?_, s.regsKeptBut_setReg_setFlag x _ _, s.onlyRegsDiffer_setReg_setFlag x _ _⟩
    · rw [State.reg_setReg_setFlag_self _ _ _ _ hx, BitVec.toNat_shiftLeft, Nat.shiftLeft_eq, pow_one]
    · rw [State.reg_setFlag, if_pos rfl, toNat_flagByte_highBitFlag]

/-- Settles O38: CXNN is the register write of the port's byte under the mask, read bit by bit. -/
theorem randomByteUnderMask : Obligations.RandomByteUnderMask := by
  intro x nn s
  refine ⟨_, exec_rnd x nn s, fun k => ?_, s.regsKeptBut_setReg x _, s.onlyRegsDiffer_setReg x _⟩
  rw [State.reg_setReg_self, BitVec.getLsbD_and]

/-- Settles O40: FX1E sets `I` to a 16-bit sum, which is the sum modulo 2^16. -/
theorem addToIndex : Obligations.AddToIndex := by
  intro x s
  refine ⟨_, exec_addI x s, ?_, s.onlyIDiffers_setI _⟩
  rw [State.setI_I, BitVec.toNat_add, toNat_zext8]

/-- Settles O50: with a key down VX receives KEY_PICK's key, one that is down; with none down 2 is taken from `pc`. -/
theorem keyWait : Obligations.KeyWait := by
  intro x s
  constructor
  · intro hdown
    obtain ⟨hlt, hkey⟩ := keyPick_down s.params.picks s.keys hdown
    have hbyte : (BitVec.ofNat 8 (keyPick s.params.picks s.keys)).toNat = keyPick s.params.picks s.keys := by
      rw [BitVec.toNat_ofNat]
      omega
    refine ⟨_, exec_ldVxK_of_down x hdown, ?_, ?_, ?_, ?_, s.regsKeptBut_setReg x _, s.onlyRegsDiffer_setReg x _⟩
    all_goals rw [State.reg_setReg_self, hbyte]
    · exact hlt
    · exact hkey
    · intro hdefault
      rw [hdefault, keyPick_nil]
      exact (lowestKey_spec s.keys hdown).2.2
  · intro hup
    refine ⟨_, exec_ldVxK_of_up x hup, ?_, s.onlyPcDiffers_setPc _⟩
    rw [State.setPc_pc]
    have := s.pc.isLt
    rw [BitVec.toNat_sub]
    simp only [BitVec.toNat_ofNat]
    omega

/-- Settles O53: each of the two writes its timer and leaves the clock alone, so the gate of the step then takes 1 by the
clock of before. -/
theorem setTimers : Obligations.SetTimers := by
  intro x s
  constructor
  · refine ⟨_, exec_ldDtVx x s, rfl, State.peek_congr rfl rfl, rfl, fun hs => ?_⟩
    have hclock : (s.setDt (s.reg x)).ClockOk := ⟨hs.clock, hs.width⟩
    exact ⟨fun period => State.toNat_tickTimer_gateFires hclock period _, State.toNat_tickTimer_gateFires hclock _ _⟩
  · refine ⟨_, exec_ldStVx x s, rfl, State.peek_congr rfl rfl, rfl, fun hs => ?_⟩
    have hclock : (s.setSt (s.reg x)).ClockOk := ⟨hs.clock, hs.width⟩
    exact ⟨fun period => State.toNat_tickTimer_gateFires hclock period _, State.toNat_tickTimer_gateFires hclock _ _⟩

/-- Settles O54: all five classes have the one meaning, the report. -/
theorem unassignedEncodingsReportOnly : Obligations.UnassignedEncodingsReportOnly := by
  intro s x y n nn
  exact ⟨s.report .unknownOpcode, s.onlyErrDiffers_report _, rfl, rfl, rfl, rfl, rfl, rfl⟩
end

section
/-! Memory: the transfers FX33, FX55 and FX65, a read after a store, and the canonical form (44_index_memory.md R183 to R185;
20_memory.md R60, R65 to R67). -/

open Sys2Proof Sys2Proof.Machine

namespace Sys2Proof

/-! ### FX33 -/

/-- Two bytes of one access lie at different addresses, also across the top of memory (20_memory.md R65). -/
theorem Machine.State.reduceAddr_dataAddr_ne (s : State) {j k : Nat} (hj : j < 4096) (hk : k < 4096) (hne : j ≠ k) :
    reduceAddr (s.dataAddr j) ≠ reduceAddr (s.dataAddr k) := by
  simp only [reduceAddr, State.dataAddr, Config.memSize]
  omega

@[simp] theorem Machine.toNat_hundreds (v : Byte) : (hundreds v).toNat = v.toNat / 100 := by
  rw [hundreds, BitVec.toNat_udiv]
  rfl

@[simp] theorem Machine.toNat_tens (v : Byte) : (tens v).toNat = v.toNat / 10 % 10 := by
  rw [tens, BitVec.toNat_umod, BitVec.toNat_udiv]
  rfl

@[simp] theorem Machine.toNat_units (v : Byte) : (units v).toNat = v.toNat % 10 := by
  rw [units, BitVec.toNat_umod]
  rfl

/-! ### The canonical form -/

section
variable (font : Font)

/-- Below its bound a canonical list lists nothing. -/
theorem Machine.Memory.read_of_lt {lo a : Nat} {m : Memory} (hm : Memory.wfFrom font lo m = true) (ha : a < lo) :
    Memory.read font m a = Memory.unlisted font a := by
  induction m generalizing lo with
  | nil => rfl
  | cons c m ih =>
    obtain ⟨b, v⟩ := c
    simp only [Memory.wfFrom, Bool.and_eq_true, decide_eq_true_eq] at hm
    obtain ⟨⟨⟨hlo, -⟩, -⟩, hrest⟩ := hm
    rw [Memory.read_cons, if_neg (by omega), ih hrest (by omega)]

/-- The head of a canonical list is the lowest address that does not read as unlisted; the rest is canonical above it. -/
theorem Machine.Memory.wfFrom_cons {lo a : Nat} {v : Byte} {m : Memory} (hm : Memory.wfFrom font lo ((a, v) :: m) = true) :
    a < 4096 ∧ Memory.read font ((a, v) :: m) a ≠ Memory.unlisted font a ∧
      (∀ b, b < a → Memory.read font ((a, v) :: m) b = Memory.unlisted font b) ∧
      Memory.wfFrom font (a + 1) m = true := by
  simp only [Memory.wfFrom, Bool.and_eq_true, decide_eq_true_eq, bne_iff_ne] at hm
  obtain ⟨⟨⟨-, hsize⟩, hv⟩, hrest⟩ := hm
  refine ⟨hsize, ?_, fun b hb => ?_, hrest⟩
  · rw [Memory.read_cons, if_pos rfl]
    exact hv
  · rw [Memory.read_cons, if_neg (Nat.ne_of_gt hb), Memory.read_of_lt font hrest (Nat.lt_succ_of_lt hb)]

/-- Two canonical lists that read alike are equal: their heads are at the same lowest address, and their rests read alike. -/
theorem Machine.Memory.eq_of_read_eq {lo : Nat} {m m' : Memory} (hm : Memory.wfFrom font lo m = true)
    (hm' : Memory.wfFrom font lo m' = true)
    (hread : ∀ a, a < 4096 → Memory.read font m a = Memory.read font m' a) : m = m' := by
  induction m generalizing lo m' with
  | nil =>
    cases m' with
    | nil => rfl
    | cons c' m' =>
      obtain ⟨hsize', hhead', -, -⟩ := Memory.wfFrom_cons font hm'
      exact absurd (hread _ hsize').symm hhead'
  | cons c m ih =>
    obtain ⟨a, v⟩ := c
    obtain ⟨hsize, hhead, hbelow, hrest⟩ := Memory.wfFrom_cons font hm
    cases m' with
    | nil => exact absurd (hread _ hsize) hhead
    | cons c' m' =>
      obtain ⟨a', v'⟩ := c'
      obtain ⟨hsize', hhead', hbelow', hrest'⟩ := Memory.wfFrom_cons font hm'
      have haddr : a = a' := by
        rcases Nat.lt_trichotomy a a' with hlt | heq | hgt
        · exact absurd ((hread a hsize).trans (hbelow' a hlt)) hhead
        · exact heq
        · exact absurd ((hread a' hsize').symm.trans (hbelow a' hgt)) hhead'
      subst haddr
      have hval : v = v' := by simpa using hread a hsize
      subst hval
      have htail : m = m' := ih hrest hrest' fun b hb => by
        by_cases hab : a = b
        · subst hab
          rw [Memory.read_of_lt font hrest (Nat.lt_succ_self a), Memory.read_of_lt font hrest' (Nat.lt_succ_self a)]
        · simpa [hab] using hread b hb
      rw [htail]

end

end Sys2Proof

/-- Settles O42: three stores at three different addresses; the last address decides the mark. -/
theorem storeDecimalDigits : Obligations.StoreDecimalDigits := by
  intro x s
  have hexec := exec_ldB x s
  refine ⟨_, hexec, ?_, ?_, ?_, fun a ha => exec_peek_of_no_store hexec ha, ?_, rfl⟩
  · rw [State.peek_poke, if_neg (s.reduceAddr_dataAddr_ne (by decide) (by decide) (by decide)), State.peek_poke,
      if_neg (s.reduceAddr_dataAddr_ne (by decide) (by decide) (by decide)), State.peek_poke, if_pos rfl, toNat_hundreds]
  · rw [State.peek_poke, if_neg (s.reduceAddr_dataAddr_ne (by decide) (by decide) (by decide)), State.peek_poke,
      if_pos rfl, toNat_tens]
  · rw [State.peek_poke, if_pos rfl, toNat_units]
  · simp only [State.poke_oob, Bool.or_assoc, ← Bool.decide_or]
    congr 1
    rw [decide_eq_decide]
    simp only [State.dataAddr]
    omega

/-- Settles O43: the stores of FX55 at the addresses from `I` upward. -/
theorem storeRegistersToMemory : Obligations.StoreRegistersToMemory := by
  intro x s
  have hexec := exec_storeRegs x s
  refine ⟨_, hexec, fun k hk => ?_, fun a ha => exec_peek_of_no_store hexec ha, ?_, s.storeBlock_frame _ _⟩
  · exact s.peek_storeBlock _ _ k (Nat.lt_succ_of_le hk)
  · simp [State.storeBlock_oob]

/-- Settles O44: the loads of FX65 from the addresses from `I` upward. -/
theorem loadRegistersFromMemory : Obligations.LoadRegistersFromMemory := by
  intro x s
  have hexec := exec_loadRegs x s
  refine ⟨_, hexec, fun k hk => ?_, fun r hr => ?_, ?_, ?_, s.loadBlock_frame _ _⟩
  · rw [State.reg_loadBlock, if_pos (Nat.lt_succ_of_le hk)]
  · exact exec_reg_of_no_write hexec (decide_eq_false hr)
  · exact State.peek_congr (exec_mem_of_no_store hexec rfl) (exec_params hexec)
  · simp [State.loadBlock_oob]

/-- Settles O45: FX65 reads the addresses FX55 stored to, for `I` is as it was. -/
theorem loadBringsBackWhatStoreStored : Obligations.LoadBringsBackWhatStoreStored := by
  intro x s t v hstore
  have hI : t.I = s.I := exec_I_of_no_write hstore fun _ _ => ⟨Instr.noConfusion, Instr.noConfusion, Instr.noConfusion⟩
  obtain ⟨t', ht', hbytes, -⟩ := storeRegistersToMemory x s
  obtain rfl : t' = t := Host.Outcome.next.inj (ht'.symm.trans hstore)
  obtain ⟨u, hload, hregs, -⟩ := loadRegistersFromMemory x { t' with V := v }
  refine ⟨u, hload, fun k hk => ?_⟩
  have haddr : ({ t' with V := v } : State).dataAddr k.val = s.dataAddr k.val := by
    rw [State.dataAddr, State.dataAddr, ← hI]
  rw [hregs k hk, haddr]
  exact hbytes k hk

/-- Settles O59: reads and stores go by the reduced address. -/
theorem readAfterStore : Obligations.ReadAfterStore := by
  intro s a b v
  exact ⟨s.peek_poke a b v, rfl⟩

/-- Settles O60: by induction on one of the lists, which name the lowest address not as unlisted first. -/
theorem equalReadsMakeEqualMemories : Obligations.EqualReadsMakeEqualMemories := by
  intro font m m' hm hm' hread
  exact Memory.eq_of_read_eq font hm hm' hread
end

section
/-! DXYN: the sprite against the screen, once and twice (45_display.md R191, R192). -/

open Sys2Proof Sys2Proof.Machine

namespace Sys2Proof

section
variable (s : State) (x y : RegIdx) (n : Nibble)

/-- The sprite as drawn, pixel by pixel: at most 15 rows, no two of its bits meet (45_display.md R191). -/
theorem Machine.State.pixel_drawSprite (px : Fin 64) (py : Fin 32) :
    (s.drawSprite x y n).1.pixel px py = (s.fb.pixel px py ^^ spriteCover s x y n px py) := by
  have hn := n.isLt
  rw [State.drawSprite, pixel_blitRows _ _ _ _ (by omega), spriteCover_eq_rowsBit]

/-- The collision flag: some pixel went from lit to unlit (45_display.md R191). -/
theorem Machine.State.flag_drawSprite :
    (s.drawSprite x y n).2 = true ↔
      ∃ px py, s.fb.pixel px py = true ∧ (s.drawSprite x y n).1.pixel px py = false := by
  have hn := n.isLt
  rw [State.drawSprite, flag_blitRows _ _ _ _ (by omega)]
  simp only [Bool.false_eq_true, false_or, pixel_blitRows _ _ _ _ (show n.toNat ≤ 32 by omega)]
  refine exists_congr fun px => exists_congr fun py => and_congr_right fun hlit => ?_
  simp [hlit]

end

/-- A flag in VF reads as 1 exactly when it is up (10_state.md R22). -/
theorem Machine.flagByte_eq_one (f : Bool) : flagByte f = 1#8 ↔ f = true := by
  cases f <;> decide

/-- The bits a sprite brings depend on its bytes and its corner only. -/
theorem Machine.spriteCover_congr {s t : State} (x y : RegIdx) (n : Nibble) (hmem : SameMemory s t) (hI : t.I = s.I)
    (hx : t.reg x = s.reg x) (hy : t.reg y = s.reg y) (px : Fin 64) (py : Fin 32) :
    spriteCover t x y n px py = spriteCover s x y n px py := by
  simp only [spriteCover, hmem _, hI, hx, hy]

end Sys2Proof

/-- Settles O47: the blit is the XOR of the sprite's bits, and its flag tells whether one of them met a lit pixel. -/
theorem drawXorsTheSprite : Obligations.DrawXorsTheSprite := by
  intro x y n s
  have hexec := exec_drw x y n s
  refine ⟨_, hexec, s.pixel_drawSprite x y n, ?_, ?_, fun r hr => ?_, ?_, ?_, rfl⟩
  · rw [State.reg_setFlag, if_pos rfl, flagByte]
    exact ite_eq_or_eq ..
  · rw [State.reg_setFlag, if_pos rfl, flagByte_eq_one]
    exact s.flag_drawSprite x y n
  · exact exec_reg_of_no_write hexec (beq_eq_false_iff_ne.2 hr)
  · exact State.peek_congr (exec_mem_of_no_store hexec rfl) (exec_params hexec)
  · rfl

/-- Settles O48: with corner and bytes the same, the second draw XORs the same bits, so the screen is back, and what goes from
lit to unlit is what the first draw lit. -/
theorem drawingTwiceRestoresTheScreen : Obligations.DrawingTwiceRestoresTheScreen := by
  intro x y n s t hdraw hx hy
  obtain ⟨t', ht', hpixel, -, -, -, hmem, -, hframe⟩ := drawXorsTheSprite x y n s
  obtain rfl : t' = t := Host.Outcome.next.inj (ht'.symm.trans hdraw)
  obtain ⟨u, hu, hpixel', -, hflag, -⟩ := drawXorsTheSprite x y n t'
  have hI : t'.I = s.I := by rw [hframe]
  have hback : u.fb = s.fb := Framebuffer.ext_pixel fun px py => by
    rw [hpixel', spriteCover_congr x y n hmem hI hx hy, hpixel, Bool.xor_assoc, Bool.xor_self, Bool.xor_false]
  refine ⟨u, hu, hback, ?_⟩
  rw [hflag, hback]
  exact exists_congr fun px => exists_congr fun py => and_comm
end

section
/-! The host: reset, the program load, its moves, and what it supplies with a step (10_state.md R37; 70_reset_and_hazards.md
R240, R243, R251). -/

open Sys2Proof Sys2Proof.Machine

namespace Sys2Proof

/-! ### Reset -/

/-- Memory after reset reads as unlisted everywhere (10_state.md R37). -/
theorem Machine.State.peek_resetWith (p : Params) (now : Nat) {a : Nat} (ha : a < 4096) :
    (State.resetWith p now).peek a = Memory.unlisted p.font a :=
  congrArg (Memory.unlisted p.font) (Nat.mod_eq_of_lt ha)

/-- The state after reset at a reading that fits the clock's width is good. -/
theorem Machine.State.good_resetWith {p : Params} {now : Nat} (hw : now < 2 ^ p.timeBits) : (State.resetWith p now).Good :=
  ⟨Memory.wf_reset p now, Nat.le_refl now, hw⟩

/-! ### The program load -/

/-- The bytes of an image stand one after the other from the first address on (70_reset_and_hazards.md R243). -/
theorem Machine.peek_loadBytes {s : State} {a : Nat} {l : List Byte}
    (h : s.loadOpen = true ∧ Config.progBase ≤ a ∧ a + l.length ≤ Config.memSize) {k : Nat} (hk : k < l.length) :
    some ((loadBytes a l s h).peek (a + k)) = l[k]? := by
  induction l generalizing a s k with
  | nil => cases hk
  | cons b l ih =>
    have hsize : a + (l.length + 1) ≤ 4096 := h.2.2
    rw [loadBytes]
    cases k with
    | zero =>
      have hreduce : reduceAddr (a + 0) = a := Nat.mod_eq_of_lt (show a < 4096 by omega)
      have hbelow : reduceAddr (a + 0) < a + 1 := by omega
      rw [peek_loadBytes_below _ _ _ _ hbelow, peek_loadByte, if_pos, List.getElem?_cons_zero]
      rw [hreduce, BitVec.toNat_ofNat, Nat.mod_eq_of_lt (by omega)]
    | succ k =>
      rw [List.getElem?_cons_succ, ← ih _ (Nat.lt_of_succ_lt_succ hk), Nat.add_right_comm a 1 k]
      rfl

/-- A load writes nothing above its last address. -/
theorem Machine.peek_loadBytes_above {s : State} {a : Nat} {l : List Byte}
    (h : s.loadOpen = true ∧ Config.progBase ≤ a ∧ a + l.length ≤ Config.memSize) {c : Nat}
    (hc : a + l.length ≤ reduceAddr c) :
    (loadBytes a l s h).peek c = s.peek c := by
  induction l generalizing a s with
  | nil => rfl
  | cons b l ih =>
    have hsize : a + (l.length + 1) ≤ 4096 := h.2.2
    have hc' : a + (l.length + 1) ≤ reduceAddr c := hc
    rw [loadBytes, ih _ (by omega), peek_loadByte, if_neg]
    rw [BitVec.toNat_ofNat, Nat.mod_eq_of_lt (by omega)]
    omega

/-- An image of at most `PROG_MAX` bytes is loaded (70_reset_and_hazards.md R243). -/
theorem Machine.loadProgram_of_le {s : State} (hopen : s.loadOpen = true) {image : List Byte} (hl : image.length ≤ 3584) :
    ∃ t, loadProgram (some image) s hopen = .ok t :=
  ⟨_, dif_pos hl⟩

/-- A load changes memory and closes itself, and leaves the bytes below 0x200 alone. -/
theorem Machine.loadProgram_frame {source : Option (List Byte)} {s t : State} {hopen : s.loadOpen = true}
    (ht : loadProgram source s hopen = .ok t) :
    t = { s with mem := t.mem, loadOpen := false } ∧ ∀ a, a < 0x200 → t.peek a = s.peek a := by
  obtain ⟨image, -, h, rfl⟩ := loadProgram_ok ht
  refine ⟨by rw [loadBytes_frame], fun a ha => ?_⟩
  have hbelow : reduceAddr a < Config.progBase := lt_of_le_of_lt (Nat.mod_le a _) ha
  exact peek_loadBytes_below _ image h a hbelow

/-- A load keeps the canonical form of memory. -/
theorem Machine.loadProgram_keeps_memory_form {source : Option (List Byte)} {s t : State} {hopen : s.loadOpen = true}
    (ht : loadProgram source s hopen = .ok t) (hw : Memory.wf s.params.font s.mem = true) :
    Memory.wf s.params.font t.mem = true := by
  obtain ⟨image, -, h, rfl⟩ := loadProgram_ok ht
  exact wf_loadBytes _ image h hw

/-! ### The host's turn of a step -/

/-- What a step takes from the host: the next input, the clock moved on by its elapsed time (70_reset_and_hazards.md R251). -/
theorem Machine.step_host {s t : State} (hstep : step s = .next t) :
    t.rnd = s.nextInput.rnd ∧ t.keys = s.nextInput.keys.getD s.keys ∧
      t.now = advanceClock s.params.timeBits s.now s.nextInput.elapsed ∧
      t.inputs = s.inputs.tail ∧ t.stepNo = s.stepNo + 1 ∧ t.loadOpen = false := by
  obtain ⟨u, hu, rfl⟩ := exec_of_step hstep
  have hhost := exec_keeps_host_fields hu
  have hfinish : u.finish = ({ u with
      keys := s.keys, lastTick := s.lastTick, rnd := s.rnd, now := s.now, inputs := s.inputs, stepNo := s.stepNo
      params := s.params, loadOpen := s.loadOpen } : State).finish := congrArg State.finish hhost
  rw [hfinish]
  exact ⟨rfl, rfl, rfl, rfl, rfl, rfl⟩

end Sys2Proof

/-- Settles O10: reset lists nothing, and takes the clock's reading as the time of the last firing. -/
theorem resetIsGood : Obligations.ResetIsGood :=
  ⟨fun _ _ hw => State.good_resetWith hw, State.good_resetWith (by decide)⟩

/-- Settles O11: the fields of reset as they are given; memory reads as unlisted, the font below 0x050 and 0 above. -/
theorem resetState : Obligations.ResetState := by
  refine ⟨fun p now => ?_, rfl, fun _ => rfl⟩
  refine ⟨fun a ha => ?_, fun a hlow hhigh => ?_, rfl, rfl, rfl, rfl, Framebuffer.pixel_clear, fun r => ?_, rfl, rfl, rfl, rfl,
    rfl⟩
  · rw [State.peek_resetWith p now (by omega), Memory.unlisted, dif_pos ha]
  · rw [State.peek_resetWith p now hhigh, Memory.unlisted, dif_neg (by omega)]
  · exact Vector.getElem_replicate r.isLt

/-- Settles O55: the image's bytes are stored one after the other from 0x200 on, below 4096 without a wrap. -/
theorem programLoadCopiesTheImage : Obligations.ProgramLoadCopiesTheImage := by
  intro s hopen
  refine ⟨fun image => ⟨fun hl => ?_, fun hl => dif_neg (Nat.not_le.2 hl)⟩, rfl⟩
  obtain ⟨t, ht⟩ := loadProgram_of_le hopen hl
  obtain ⟨image', himage, h, hloaded⟩ := loadProgram_ok ht
  cases himage
  refine ⟨t, ht, fun k hk => ?_, fun a ha hout => ?_, (loadProgram_frame ht).1⟩
  · rw [hloaded]
    exact peek_loadBytes h hk
  · have hreduce : reduceAddr a = a := Nat.mod_eq_of_lt ha
    rw [hloaded]
    rcases hout with hbelow | habove
    · exact peek_loadBytes_below _ image h a (by rw [hreduce]; exact hbelow)
    · exact peek_loadBytes_above h (by rw [hreduce]; exact habove)

/-- Settles O56: the moves are the four constructors, each with its frame; a step ends with the host's turn, whose inputs are
those listed before the step. -/
theorem hostMovesKeepToTheProtocol : Obligations.HostMovesKeepToTheProtocol := by
  intro s
  refine ⟨⟨.reset, rfl, rfl⟩, fun mask => .keys mask, fun r n hle hw => ?_, fun image hopen hl => ?_, fun t hmove => ?_,
    fun t hstep => ?_, fun i l h => ?_, fun h => ?_, fun _ => rfl⟩
  · have hinputs : driveInputs r (n - s.now) s = { s with rnd := r, now := n } := by
      rw [driveInputs, advanceClock_reaches hle hw]
    rw [← hinputs]
    exact .inputs r (n - s.now)
  · obtain ⟨t, ht⟩ := loadProgram_of_le hopen hl
    exact ⟨hopen, t, ht, .load image t hopen ht⟩
  · cases hmove with
    | reset => exact .inl rfl
    | load image _ hopen ht =>
      obtain ⟨hframe, hlow⟩ := loadProgram_frame ht
      refine .inr ⟨by rw [hframe], .inr ⟨hopen, ?_, ?_, ?_, ?_, hlow⟩⟩
      all_goals rw [hframe]
    | keys mask => exact .inr ⟨rfl, .inl ⟨rfl, rfl⟩⟩
    | inputs r d => exact .inr ⟨rfl, .inl ⟨rfl, rfl⟩⟩
  · obtain ⟨hrnd, hkeys, hnow, hinputs, hno, hopen⟩ := step_host hstep
    refine ⟨hopen, step_params hstep, hrnd, hkeys, fun hfits => ?_, fun hpast => ?_, hinputs, hno⟩
    · rw [hnow, advanceClock]
      omega
    · rw [hnow, advanceClock]
      omega
  · rw [State.nextInput, h, List.headD_cons]
  · rw [State.nextInput, h, List.headD_nil]

/-- Settles O57: no move but a load writes memory, which a load writes by `loadByte`; the clock is only ever moved on. -/
theorem hostMovesKeepGoodStates : Obligations.HostMovesKeepGoodStates := by
  intro s hs
  refine ⟨fun t hmove => ?_, fun a b h => ⟨wf_loadByte a b h hs.memWf, hs.clock, hs.width⟩,
    fun _ => ⟨hs.memWf, hs.clock, hs.width⟩⟩
  cases hmove with
  | reset => exact ⟨⟨Memory.wf_nil s.params.font, Nat.le_refl s.now, hs.width⟩, Nat.le_refl s.now⟩
  | load image _ hopen ht =>
    have hmem := loadProgram_keeps_memory_form ht hs.memWf
    rw [(loadProgram_frame ht).1]
    exact ⟨⟨hmem, hs.clock, hs.width⟩, Nat.le_refl s.now⟩
  | keys mask => exact ⟨⟨hs.memWf, hs.clock, hs.width⟩, Nat.le_refl s.now⟩
  | inputs r d =>
    obtain ⟨hle, hlt⟩ := advanceClock_spec d hs.width
    exact ⟨⟨hs.memWf, hs.clock.trans hle, hlt⟩, hle⟩
end
